-- ==== Sys2Proof/Word.lean ====
section
/-! DEFINITION. The two word types of the block: the byte (every memory, every controller command
parameter) and the 80-bit command word (spec/30_encoding.md R70). -/

namespace Sys2Proof

/-- One byte; bit 0 is the least significant (R11) and, in a byte of pixels, the topmost row (R52). -/
abbrev Byte := BitVec 8

/-- One command word `w[79:0]`, one operation (R70). -/
abbrev CmdWord := BitVec 80

end Sys2Proof
end

