-- ==== Sys2Proof/Config.lean ====
section
/-! DEFINITION. The configuration a model of the block takes as an argument (spec/00_scope.md R8), and
the values the spec leaves open: functions and constants WITHOUT a body, so that no proof can see what
they are. -/

namespace Sys2Proof

/-- The charge-pump choice `vcc` (R28, R74): internal = 0, external = 1. -/
inductive Vcc where
  | internal
  | external
deriving DecidableEq, Repr, Inhabited

/-- The controller variant `VARIANT` (R27, R74): SSD1306 = 0, SH1106 = 1. -/
inductive Variant where
  | ssd1306
  | sh1106
deriving DecidableEq, Repr, Inhabited

/-- The `kind` argument of `ScrollSeq` (R205): R, L, DR, DL. -/
inductive ScrollKind where
  | right
  | left
  | diagRight
  | diagLeft
deriving DecidableEq, Repr, Inhabited

/-- The framing the transport adapter uses (R8 `TRANSPORT`; read only by R59). -/
inductive Transport where
  | i2c
  | spi
deriving DecidableEq, Repr, Inhabited

/-- The parameters of R8 that are plain values. Every one the source leaves OPEN is a field, so a
statement about every state is a statement about every configuration. `State` carries one of these
(notes/assumptions/1.md). -/
structure Config where
  /-- `PHYS_W`, a strap sampled at reset (R8, R260). -/
  physW : BitVec 8
  /-- `PHYS_H`, a strap sampled at reset (R8, R260). -/
  physH : BitVec 8
  /-- `ZOOM`, literal value, a strap sampled at reset (R8, R260); legal values 1, 2, 4, 8. -/
  zoom : BitVec 4
  /-- `FB_CAPACITY`: bytes of framebuffer RAM of the instance. -/
  fbCapacity : Nat
  /-- `TRANSPORT`. -/
  transport : Transport
  /-- `DIM_CONTRAST`. -/
  dimContrast : Byte
  /-- `CMD_PAGEADDR`. -/
  cmdPageAddr : Byte
  /-- `CMD_COLUMNADDR`. -/
  cmdColumnAddr : Byte
  /-- `CMD_SETLOWCOLUMN`. -/
  cmdSetLowColumn : Byte
  /-- `CMD_SETHIGHCOLUMN`. -/
  cmdSetHighColumn : Byte
  /-- `CMD_SETPAGE`. -/
  cmdSetPage : Byte
  /-- `CMD_NORMALDISPLAY`. -/
  cmdNormalDisplay : Byte
  /-- `CMD_INVERTDISPLAY`. -/
  cmdInvertDisplay : Byte
  /-- `CMD_SETCONTRAST`. -/
  cmdSetContrast : Byte
  /-- `CMD_DEACTIVATE_SCROLL`. -/
  cmdDeactivateScroll : Byte
  /-- `SH_COL_OFFSET`. -/
  shColOffset : Nat
  /-- `SH_PER_PAGE`, default `false` (R8). -/
  shPerPage : Bool := false
deriving DecidableEq, Repr, Inhabited

/-- `InitSeq(PHYS_W, PHYS_H, vcc, variant)`: the opaque finite byte list of R161. A claim may assume
only that it is a function of these four values. -/
opaque Config.initSeq (physW physH : BitVec 8) (vcc : Vcc) (variant : Variant) : List Byte

/-- `NormalContrast(PHYS_W, PHYS_H, vcc)`: the open contrast heuristic of R203. -/
opaque Config.normalContrast (physW physH : BitVec 8) (vcc : Vcc) : Byte

/-- `ScrollSeq(kind, start, stop, PHYS_H)` as its first byte and the rest: R205 says the list is finite
and non-empty, and nothing else. -/
opaque Config.scrollBytes (kind : ScrollKind) (start stop : Byte) (physH : BitVec 8) : Byte × List Byte

/-- The configuration of the instance that `State.reset` is the reset of: any configuration
(notes/assumptions/2.md). -/
opaque Config.board : Config

/-- The registers R41 leaves unspecified after reset, and `RES`, which no rule gives a value before the
first operation completes. -/
structure PowerOn where
  variant : Variant
  vcc : Vcc
  normcon : Byte
  contrast : Byte
  invert : Bool
  dim : Bool
  res : Bool
deriving DecidableEq, Repr, Inhabited

/-- FREE VALUE (notes/assumptions/4.md): what the unspecified registers hold after a reset, one unknown
record per value of the model's counter. -/
opaque Config.powerOn (epoch : Nat) : PowerOn

/-- FREE VALUE (notes/assumptions/5.md): the byte of FB at an index after a reset. -/
opaque Config.fbPowerOn (epoch index : Nat) : Byte

/-- FREE VALUE (notes/assumptions/9.md): the byte the bitmap port returns at an address the host has not
provided (spec/93_implementation_defined.md U17). -/
opaque Config.bmpUnprovided (epoch index : Nat) : Byte

/-- The level of the SPI control line that means command: "not in the source" (R59), so a constant with
no body. -/
opaque Config.spiCommandLevel : Bool

end Sys2Proof
end

