-- ==== Sys2Proof/Syntax.lean ====
section
/-! DEFINITION. The operations of the block as syntax: one constructor per row of spec/opcode_table.json
(spec/30_encoding.md R75), operands already assembled (R72 to R74). -/

namespace Sys2Proof

/-- `color` (R74, R104): OFF = 0, ON = 1, INVERT = 2; 3 is reserved and has no constructor. -/
inductive Color where
  | off
  | on
  | invert
deriving DecidableEq, Repr

/-- `rot`, `ROT` (R26, R74): quarter turns 0 to 3. -/
inductive Rot where
  | deg0
  | deg90
  | deg180
  | deg270
deriving DecidableEq, Repr

/-- One operation. Coordinates, lengths and region sizes are signed and read as integers (R72); BLIT's
operands are unsigned (R73); scroll pages are bytes (R73). -/
inductive Instr where
  /-- BEGIN vcc, variant (R160). -/
  | begin (vcc : Vcc) (variant : Variant)
  /-- CLEAR (R109). -/
  | clear
  /-- SETROT rot (R103). -/
  | setrot (rot : Rot)
  /-- SETPIX x, y, color (R105). -/
  | setpix (x y : Int) (color : Color)
  /-- GETPIX x, y (R106). -/
  | getpix (x y : Int)
  /-- HRUN x, y, len, color (R107). -/
  | hrun (x y len : Int) (color : Color)
  /-- VRUN x, y, len, color (R108). -/
  | vrun (x y len : Int) (color : Color)
  /-- XFERFULL (R162). -/
  | xferfull
  /-- XFERRGN x, y, w, h (R163). -/
  | xferrgn (x y w h : Int)
  /-- BLIT px, py, bw, bh, mirror, invert (R140). -/
  | blit (px py bw bh : Nat) (mirror invert : Bool)
  /-- SETINV enable (R201). -/
  | setinv (enable : Bool)
  /-- SETDIM enable (R202). -/
  | setdim (enable : Bool)
  /-- SCRR start, stop (R206). -/
  | scrr (start stop : Byte)
  /-- SCRL start, stop (R207). -/
  | scrl (start stop : Byte)
  /-- SCRDR start, stop (R208). -/
  | scrdr (start stop : Byte)
  /-- SCRDL start, stop (R209). -/
  | scrdl (start stop : Byte)
  /-- SCRSTOP (R210). -/
  | scrstop
deriving DecidableEq, Repr

end Sys2Proof
end

