-- ==== Sys2Proof/WellFormed.lean ====
section
/-! DEFINITION. Which terms of `Instr` a command word can carry: the operand ranges of
spec/30_encoding.md R72 and R73. -/

namespace Sys2Proof

/-- The range of a signed 16-bit operand (R72: -32768..32767). -/
def fitsSigned16 (v : Int) : Bool := decide (-32768 ≤ v) && decide (v ≤ 32767)

/-- The range of an unsigned 16-bit operand (R73). -/
def fitsUnsigned16 (v : Nat) : Bool := decide (v < 65536)

/-- An operation some command word carries. -/
def Instr.wellFormed : Instr → Bool
  | .begin _ _ => true
  | .clear => true
  | .setrot _ => true
  | .setpix x y _ => fitsSigned16 x && fitsSigned16 y
  | .getpix x y => fitsSigned16 x && fitsSigned16 y
  | .hrun x y len _ => fitsSigned16 x && fitsSigned16 y && fitsSigned16 len
  | .vrun x y len _ => fitsSigned16 x && fitsSigned16 y && fitsSigned16 len
  | .xferfull => true
  | .xferrgn x y w h => fitsSigned16 x && fitsSigned16 y && fitsSigned16 w && fitsSigned16 h
  | .blit px py bw bh _ _ =>
    fitsUnsigned16 px && fitsUnsigned16 py && fitsUnsigned16 bw && fitsUnsigned16 bh
  | .setinv _ => true
  | .setdim _ => true
  | .scrr _ _ => true
  | .scrl _ _ => true
  | .scrdr _ _ => true
  | .scrdl _ _ => true
  | .scrstop => true

end Sys2Proof
end

