-- ==== Sys2Proof/Decode.lean ====
section
/-! DEFINITION. Decoding a command word (spec/30_encoding.md R70 to R77), total on all 2^80 words and
rejecting by name; the encoder, written from the same table; the match and mask columns of R75. -/

namespace Sys2Proof

/-! ### The fields of the one format `CW` (R70) -/

/-- `op = w[79:72]`. -/
def opField (w : CmdWord) : BitVec 8 := w.extractLsb' 72 8
/-- `fl = w[71:64]`. -/
def flField (w : CmdWord) : BitVec 8 := w.extractLsb' 64 8
/-- `a = w[63:48]`. -/
def aField (w : CmdWord) : BitVec 16 := w.extractLsb' 48 16
/-- `b = w[47:32]`. -/
def bField (w : CmdWord) : BitVec 16 := w.extractLsb' 32 16
/-- `c = w[31:16]`. -/
def cField (w : CmdWord) : BitVec 16 := w.extractLsb' 16 16
/-- `d = w[15:0]`. -/
def dField (w : CmdWord) : BitVec 16 := w.extractLsb' 0 16

/-- The word with the given fields, written `op fl a b c d` most significant first (R70). -/
def packWord (op fl : BitVec 8) (a b c d : BitVec 16) : CmdWord := op ++ fl ++ a ++ b ++ c ++ d

/-! ### Operand assembly (R72 to R74) -/

/-- `sext_16` (R72). -/
def sext16 (v : BitVec 16) : Int := v.toInt
/-- `zext_16` (R73). -/
def zext16 (v : BitVec 16) : Nat := v.toNat
/-- `start = a[7:0]`, `stop = b[7:0]` (R73). -/
def lowByte (v : BitVec 16) : Byte := v.extractLsb' 0 8
/-- The high half of a scroll operand, required to be 0 (R73). -/
def highByte (v : BitVec 16) : Byte := v.extractLsb' 8 8

/-- `vcc = fl[0]` (R74). -/
def vccOfBit : Bool → Vcc
  | false => .internal
  | true => .external

/-- `variant = fl[1]` (R74). -/
def variantOfBit : Bool → Variant
  | false => .ssd1306
  | true => .sh1106

/-- `rot = fl[1:0]` (R74). -/
def rotOfBits (lo hi : Bool) : Rot :=
  match hi, lo with
  | false, false => .deg0
  | false, true => .deg90
  | true, false => .deg180
  | true, true => .deg270

/-- `color = fl[1:0]` (R74); 3 is reserved. -/
def colorOfBits (lo hi : Bool) : Option Color :=
  match hi, lo with
  | false, false => some .off
  | false, true => some .on
  | true, false => some .invert
  | true, true => none

/-! ### Decoding (R75, R77) -/

/-- The three kinds of reserved encoding that R77 lists. -/
inductive Reject where
  /-- An `op` value not in the table. -/
  | unknownOpcode
  /-- A listed `op` with a non-zero bit in a field that must be 0. -/
  | reservedBits
  /-- Colour 3 in SETPIX, HRUN or VRUN. -/
  | reservedColour
deriving DecidableEq, Repr

/-- The operation `i`, where the fields that must be 0 are 0. -/
def requireZero (zeros : Bool) (i : Instr) : Except Reject Instr :=
  if zeros then .ok i else .error .reservedBits

/-- The operation of a colour, where the fields that must be 0 are 0 and the colour is not 3. -/
def requireColor (zeros : Bool) (fl : BitVec 8) (i : Color → Instr) : Except Reject Instr :=
  if zeros then
    match colorOfBits (fl.getLsbD 0) (fl.getLsbD 1) with
    | some color => .ok (i color)
    | none => .error .reservedColour
  else .error .reservedBits

/-- One row of R75 after another: `op` selects the row, the row's "must be 0" fields are tested, the
operands are assembled. -/
def decodeFields (op fl : BitVec 8) (a b c d : BitVec 16) : Except Reject Instr :=
  match op.toNat with
  | 0x01 => requireZero (fl &&& 0xFC#8 == 0 && a == 0 && b == 0 && c == 0 && d == 0)
      (.begin (vccOfBit (fl.getLsbD 0)) (variantOfBit (fl.getLsbD 1)))
  | 0x02 => requireZero (fl == 0 && a == 0 && b == 0 && c == 0 && d == 0) .clear
  | 0x03 => requireZero (fl &&& 0xFC#8 == 0 && a == 0 && b == 0 && c == 0 && d == 0)
      (.setrot (rotOfBits (fl.getLsbD 0) (fl.getLsbD 1)))
  | 0x10 => requireColor (fl &&& 0xFC#8 == 0 && c == 0 && d == 0) fl (.setpix (sext16 a) (sext16 b))
  | 0x11 => requireZero (fl == 0 && c == 0 && d == 0) (.getpix (sext16 a) (sext16 b))
  | 0x12 => requireColor (fl &&& 0xFC#8 == 0 && d == 0) fl (.hrun (sext16 a) (sext16 b) (sext16 c))
  | 0x13 => requireColor (fl &&& 0xFC#8 == 0 && d == 0) fl (.vrun (sext16 a) (sext16 b) (sext16 c))
  | 0x20 => requireZero (fl == 0 && a == 0 && b == 0 && c == 0 && d == 0) .xferfull
  | 0x21 => requireZero (fl == 0) (.xferrgn (sext16 a) (sext16 b) (sext16 c) (sext16 d))
  | 0x22 => requireZero (fl &&& 0xFC#8 == 0)
      (.blit (zext16 a) (zext16 b) (zext16 c) (zext16 d) (fl.getLsbD 0) (fl.getLsbD 1))
  | 0x30 => requireZero (fl &&& 0xFE#8 == 0 && a == 0 && b == 0 && c == 0 && d == 0)
      (.setinv (fl.getLsbD 0))
  | 0x31 => requireZero (fl &&& 0xFE#8 == 0 && a == 0 && b == 0 && c == 0 && d == 0)
      (.setdim (fl.getLsbD 0))
  | 0x38 => requireZero (fl == 0 && highByte a == 0 && highByte b == 0 && c == 0 && d == 0)
      (.scrr (lowByte a) (lowByte b))
  | 0x39 => requireZero (fl == 0 && highByte a == 0 && highByte b == 0 && c == 0 && d == 0)
      (.scrl (lowByte a) (lowByte b))
  | 0x3A => requireZero (fl == 0 && highByte a == 0 && highByte b == 0 && c == 0 && d == 0)
      (.scrdr (lowByte a) (lowByte b))
  | 0x3B => requireZero (fl == 0 && highByte a == 0 && highByte b == 0 && c == 0 && d == 0)
      (.scrdl (lowByte a) (lowByte b))
  | 0x3F => requireZero (fl == 0 && a == 0 && b == 0 && c == 0 && d == 0) .scrstop
  | _ => .error .unknownOpcode

/-- The decoder: total on every command word. No mode bit changes decoding (R71). -/
def decode (w : CmdWord) : Except Reject Instr :=
  decodeFields (opField w) (flField w) (aField w) (bField w) (cField w) (dField w)

/-! ### Encoding (R75) -/

/-- Two bits in `fl[1:0]`, the rest 0. -/
def flBits (lo hi : Bool) : BitVec 8 :=
  (if lo then 1#8 else 0#8) ||| (if hi then 2#8 else 0#8)

/-- `fl` of a colour (R74). -/
def flColor : Color → BitVec 8
  | .off => flBits false false
  | .on => flBits true false
  | .invert => flBits false true

/-- `fl` of a rotation (R74). -/
def flRot : Rot → BitVec 8
  | .deg0 => flBits false false
  | .deg90 => flBits true false
  | .deg180 => flBits false true
  | .deg270 => flBits true true

/-- `fl` of BEGIN: `000000 variant vcc` (R75). -/
def flBegin (vcc : Vcc) (variant : Variant) : BitVec 8 :=
  flBits (decide (vcc = .external)) (decide (variant = .sh1106))

/-- A scroll page in a 16-bit operand, high byte 0 (R73). -/
def pageOperand (page : Byte) : BitVec 16 := page.setWidth 16

/-- The command word of an operation. -/
def encode : Instr → CmdWord
  | .begin vcc variant => packWord 0x01 (flBegin vcc variant) 0 0 0 0
  | .clear => packWord 0x02 0 0 0 0 0
  | .setrot rot => packWord 0x03 (flRot rot) 0 0 0 0
  | .setpix x y color => packWord 0x10 (flColor color) (.ofInt 16 x) (.ofInt 16 y) 0 0
  | .getpix x y => packWord 0x11 0 (.ofInt 16 x) (.ofInt 16 y) 0 0
  | .hrun x y len color =>
    packWord 0x12 (flColor color) (.ofInt 16 x) (.ofInt 16 y) (.ofInt 16 len) 0
  | .vrun x y len color =>
    packWord 0x13 (flColor color) (.ofInt 16 x) (.ofInt 16 y) (.ofInt 16 len) 0
  | .xferfull => packWord 0x20 0 0 0 0 0
  | .xferrgn x y w h =>
    packWord 0x21 0 (.ofInt 16 x) (.ofInt 16 y) (.ofInt 16 w) (.ofInt 16 h)
  | .blit px py bw bh mirror invert =>
    packWord 0x22 (flBits mirror invert) (.ofNat 16 px) (.ofNat 16 py) (.ofNat 16 bw) (.ofNat 16 bh)
  | .setinv enable => packWord 0x30 (flBits enable false) 0 0 0 0
  | .setdim enable => packWord 0x31 (flBits enable false) 0 0 0 0
  | .scrr start stop => packWord 0x38 0 (pageOperand start) (pageOperand stop) 0 0
  | .scrl start stop => packWord 0x39 0 (pageOperand start) (pageOperand stop) 0 0
  | .scrdr start stop => packWord 0x3A 0 (pageOperand start) (pageOperand stop) 0 0
  | .scrdl start stop => packWord 0x3B 0 (pageOperand start) (pageOperand stop) 0 0
  | .scrstop => packWord 0x3F 0 0 0 0 0

/-! ### The match and mask columns (R75), transcribed digit for digit -/

/-- A row of R75's second table. `colored` rows ask in addition `fl[1:0] ≠ 3`. -/
structure OpcodeRow where
  mnemonic : String
  pattern : CmdWord
  mask : CmdWord
  colored : Bool := false
deriving DecidableEq, Repr

/-- "a word `w` selects the row when `w & mask = match` (and, for rows with a colour, when
`fl[1:0] != 3`)" (R75). -/
def OpcodeRow.selects (r : OpcodeRow) (w : CmdWord) : Bool :=
  w &&& r.mask == r.pattern && !(r.colored && w.extractLsb' 64 2 == 3#2)

/-- The seventeen rows. -/
def opcodeTable : List OpcodeRow :=
  [ ⟨"BEGIN", 0x01000000000000000000, 0xFFFCFFFFFFFFFFFFFFFF, false⟩,
    ⟨"CLEAR", 0x02000000000000000000, 0xFFFFFFFFFFFFFFFFFFFF, false⟩,
    ⟨"SETROT", 0x03000000000000000000, 0xFFFCFFFFFFFFFFFFFFFF, false⟩,
    ⟨"SETPIX", 0x10000000000000000000, 0xFFFC00000000FFFFFFFF, true⟩,
    ⟨"GETPIX", 0x11000000000000000000, 0xFFFF00000000FFFFFFFF, false⟩,
    ⟨"HRUN", 0x12000000000000000000, 0xFFFC000000000000FFFF, true⟩,
    ⟨"VRUN", 0x13000000000000000000, 0xFFFC000000000000FFFF, true⟩,
    ⟨"XFERFULL", 0x20000000000000000000, 0xFFFFFFFFFFFFFFFFFFFF, false⟩,
    ⟨"XFERRGN", 0x21000000000000000000, 0xFFFF0000000000000000, false⟩,
    ⟨"BLIT", 0x22000000000000000000, 0xFFFC0000000000000000, false⟩,
    ⟨"SETINV", 0x30000000000000000000, 0xFFFEFFFFFFFFFFFFFFFF, false⟩,
    ⟨"SETDIM", 0x31000000000000000000, 0xFFFEFFFFFFFFFFFFFFFF, false⟩,
    ⟨"SCRR", 0x38000000000000000000, 0xFFFFFF00FF00FFFFFFFF, false⟩,
    ⟨"SCRL", 0x39000000000000000000, 0xFFFFFF00FF00FFFFFFFF, false⟩,
    ⟨"SCRDR", 0x3A000000000000000000, 0xFFFFFF00FF00FFFFFFFF, false⟩,
    ⟨"SCRDL", 0x3B000000000000000000, 0xFFFFFF00FF00FFFFFFFF, false⟩,
    ⟨"SCRSTOP", 0x3F000000000000000000, 0xFFFFFFFFFFFFFFFFFFFF, false⟩ ]

/-! ### The host's reading of the table -/

/-- The command word of the low `nbits` bits of `w`: every bit above them is 0. -/
def tableWord (nbits w : Nat) : CmdWord := .ofNat 80 (w % 2 ^ nbits)

/-- The instruction the decoder reads from the word `w` of the table's numbering. The command word is
one datum (R53), so its bits are the table's; a word that does not fit 80 bits is none. -/
def decodeTableWord (nbits w : Nat) : Option Instr :=
  if w % 2 ^ nbits < 2 ^ 80 then (decode (tableWord nbits w)).toOption else none

/-! ### Assembler syntax (R80) -/

/-- The mnemonic of R75. -/
def Instr.mnemonic : Instr → String
  | .begin _ _ => "BEGIN"
  | .clear => "CLEAR"
  | .setrot _ => "SETROT"
  | .setpix _ _ _ => "SETPIX"
  | .getpix _ _ => "GETPIX"
  | .hrun _ _ _ _ => "HRUN"
  | .vrun _ _ _ _ => "VRUN"
  | .xferfull => "XFERFULL"
  | .xferrgn _ _ _ _ => "XFERRGN"
  | .blit _ _ _ _ _ _ => "BLIT"
  | .setinv _ => "SETINV"
  | .setdim _ => "SETDIM"
  | .scrr _ _ => "SCRR"
  | .scrl _ _ => "SCRL"
  | .scrdr _ _ => "SCRDR"
  | .scrdl _ _ => "SCRDL"
  | .scrstop => "SCRSTOP"

/-- INT or EXT (R80). -/
def Vcc.name : Vcc → String
  | .internal => "INT"
  | .external => "EXT"

/-- SSD1306 or SH1106 (R80). -/
def Variant.name : Variant → String
  | .ssd1306 => "SSD1306"
  | .sh1106 => "SH1106"

/-- OFF, ON or INVERT (R80). -/
def Color.name : Color → String
  | .off => "OFF"
  | .on => "ON"
  | .invert => "INVERT"

/-- 0, 1, 2 or 3 (R80). -/
def Rot.name : Rot → String
  | .deg0 => "0"
  | .deg90 => "1"
  | .deg180 => "2"
  | .deg270 => "3"

/-- 0 or 1 (R80). -/
def bitName (b : Bool) : String := if b then "1" else "0"

/-- The operands in the order of R80, numbers in decimal. -/
def Instr.operands : Instr → List String
  | .begin vcc variant => [vcc.name, variant.name]
  | .clear => []
  | .setrot rot => [rot.name]
  | .setpix x y color => [toString x, toString y, color.name]
  | .getpix x y => [toString x, toString y]
  | .hrun x y len color => [toString x, toString y, toString len, color.name]
  | .vrun x y len color => [toString x, toString y, toString len, color.name]
  | .xferfull => []
  | .xferrgn x y w h => [toString x, toString y, toString w, toString h]
  | .blit px py bw bh mirror invert =>
    [toString px, toString py, toString bw, toString bh, bitName mirror, bitName invert]
  | .setinv enable => [bitName enable]
  | .setdim enable => [bitName enable]
  | .scrr start stop => [toString start.toNat, toString stop.toNat]
  | .scrl start stop => [toString start.toNat, toString stop.toNat]
  | .scrdr start stop => [toString start.toNat, toString stop.toNat]
  | .scrdl start stop => [toString start.toNat, toString stop.toNat]
  | .scrstop => []

/-- One line of R80's syntax: the mnemonic, then the operands, comma separated. -/
def Instr.assembly (i : Instr) : String :=
  match i.operands with
  | [] => i.mnemonic
  | o :: os => os.foldl (fun line operand => line ++ ", " ++ operand) (i.mnemonic ++ " " ++ o)

end Sys2Proof
end

