-- ==== Sys2Proof/Machine/Geometry.lean ====
section
/-! DEFINITION. The constants derived from the configuration (spec/00_scope.md R9, R10). They mean
something only where `configValid` holds (notes/assumptions/15.md). -/

namespace Sys2Proof.Machine

/-- `PHYS_W` as a number. -/
def physWidth (c : Config) : Nat := c.physW.toNat

/-- `PHYS_H` as a number. -/
def physHeight (c : Config) : Nat := c.physH.toNat

/-- `ZOOM` as a number. -/
def zoomFactor (c : Config) : Nat := c.zoom.toNat

/-- `VALIDCFG` (R9). ZOOM = 1 is legal (R10). -/
def configValid (c : Config) : Bool :=
  (zoomFactor c == 1 || zoomFactor c == 2 || zoomFactor c == 4 || zoomFactor c == 8) &&
  decide (0 < physWidth c) && decide (0 < physHeight c) &&
  physWidth c % zoomFactor c == 0 && physHeight c % zoomFactor c == 0

/-- `ceil(n/8)` (R12). -/
def ceilDiv8 (n : Nat) : Nat := (n + 7) / 8

/-- `LW`: logical width in pixels. -/
def logicalWidth (c : Config) : Nat := physWidth c / zoomFactor c

/-- `LH`: logical height in pixels. -/
def logicalHeight (c : Config) : Nat := physHeight c / zoomFactor c

/-- `LPAGES`: logical pages. -/
def logicalPages (c : Config) : Nat := ceilDiv8 (logicalHeight c)

/-- `FBSIZE`: framebuffer bytes. -/
def fbSize (c : Config) : Nat := logicalPages c * logicalWidth c

/-- `NPP`: physical pages. -/
def physPages (c : Config) : Nat := ceilDiv8 (physHeight c)

/-- `G`: logical bits per vertical group at zoom `z`. -/
def groupBits (z : Nat) : Nat := 8 / z

/-- How many bytes of FB exist: FBSIZE, which R9 defines only where VALIDCFG holds. -/
def fbBytes (c : Config) : Nat := if configValid c then fbSize c else 0

/-- BEGIN's check (R160): the configuration is legal and the framebuffer fits. FBSIZE is looked at
only where VALIDCFG holds. -/
def configUsable (c : Config) : Bool := configValid c && decide (fbSize c ≤ c.fbCapacity)

end Sys2Proof.Machine
end

