-- ==== Sys2Proof/Machine/Memory.lean ====
section
/-! DEFINITION. The framebuffer as plain data: a list of (index, byte) pairs in one canonical form, with
one-byte reads and writes, the only access width (spec/20_memory.md R55, R56). -/

namespace Sys2Proof.Machine

/-- FB as the list of its non-zero bytes, indices strictly rising. -/
abbrev Memory := List Host.Cell

/-- What an index that is not listed holds. It is how a zero byte is WRITTEN DOWN, not a value given to
storage nothing has written: after reset FB holds free values (notes/assumptions/5.md, 6.md). -/
def unlistedByte : Byte := 0

/-- `FB[i]`. -/
def readByte : Memory → Nat → Byte
  | [], _ => unlistedByte
  | (b, v) :: rest, i => if b = i then v else readByte rest i

/-- `FB[i] <- v`, keeping the canonical form. -/
def writeByte : Memory → Nat → Byte → Memory
  | [], i, v => if v = unlistedByte then [] else [(i, v)]
  | (b, u) :: rest, i, v =>
    if i < b then
      if v = unlistedByte then (b, u) :: rest else (i, v) :: (b, u) :: rest
    else if i = b then
      if v = unlistedByte then rest else (i, v) :: rest
    else (b, u) :: writeByte rest i v

/-- Every index is at least `lo`, indices rise strictly, no entry equals what an unlisted index holds. -/
def canonicalFrom : Nat → Memory → Bool
  | _, [] => true
  | lo, (b, v) :: rest => decide (lo ≤ b) && decide (v ≠ unlistedByte) && canonicalFrom (b + 1) rest

/-- The canonical form. -/
def Memory.wf (m : Memory) : Bool := canonicalFrom 0 m

/-- Every listed index is below `n`. -/
def Memory.below (n : Nat) (m : Memory) : Bool := m.all fun cell => decide (cell.1 < n)

/-- FB with every byte zero: what CLEAR leaves (R109 of spec/40_pixel_engine.md). -/
def zeroMemory : Memory := []

/-- The `count` bytes `f start`, `f (start + 1)`, ... at those indices. -/
def imageFrom (f : Nat → Byte) : Nat → Nat → Memory
  | _, 0 => []
  | start, count + 1 =>
    if f start = unlistedByte then imageFrom f (start + 1) count
    else (start, f start) :: imageFrom f (start + 1) count

end Sys2Proof.Machine
end

