-- ==== Sys2Proof/Machine/State.lean ====
section
/-! DEFINITION. The state of the block (spec/10_state.md R20), its two observations TX and RES (R35,
R36), what the host presents at the ports (R38), the reasons a step can stop, and reset (R41, R260). -/

namespace Sys2Proof.Machine

/-- An element of TX (R35): a byte sent "as a command" or "as data". -/
inductive TxByte where
  /-- `C(b)`. -/
  | command (b : Byte)
  /-- `D(b)`. -/
  | data (b : Byte)
deriving DecidableEq, Repr

/-- `PHASE` (R23). -/
inductive Phase where
  | uninitialized
  | ready
deriving DecidableEq, Repr

/-- What the host does at the block's ports, one event at a time (R38, R62). -/
inductive HostEvent where
  /-- `cmd_word`, with the bytes the host provides at `BMP[0]`, `BMP[1]`, ... while the operation runs
  (R37; notes/assumptions/9.md). -/
  | command (word : CmdWord) (bmp : List Byte)
  /-- `rst`, with the straps it samples (R260; notes/assumptions/18.md). -/
  | reset (physW physH : BitVec 8) (zoom : BitVec 4)
deriving DecidableEq, Repr

/-- The state of the machine. -/
structure State where
  /-- The configuration (R8), written by no operation (notes/assumptions/1.md). -/
  cfg : Config
  /-- `PHASE` (R23). -/
  phase : Phase
  /-- `FAILED` (R24). -/
  failed : Bool
  /-- `SCROLLING` (R25). -/
  scrolling : Bool
  /-- `ROT` (R26). -/
  rot : Rot
  /-- `VARIANT` (R27). -/
  variant : Variant
  /-- `VCC` (R28). -/
  vcc : Vcc
  /-- `NORMCON` (R29). -/
  normcon : Byte
  /-- `CONTRAST` (R30). -/
  contrast : Byte
  /-- `INVERT` (R31). -/
  invert : Bool
  /-- `DIM` (R32). -/
  dim : Bool
  /-- `FB` (R33). -/
  fb : Memory
  /-- `TX` (R35), oldest first. -/
  tx : List TxByte
  /-- `RES` (R36). -/
  res : Bool
  /-- What the host provides on the bitmap port, from address 0 (R37). -/
  bmp : List Byte
  /-- The host's events still to come, next first (R62). -/
  host : List HostEvent
  /-- The MODEL's own counter, which picks the free values (notes/assumptions/10.md). -/
  epoch : Nat
deriving DecidableEq, Repr

/-- No step ends in a fault: the block has no exceptions, traps or interrupts (spec/60_exceptions.md
R231, R241, R243), and its one reported failure is a next state (R230). -/
inductive Fault
deriving DecidableEq, Repr

/-- Why the spec gives an operation no meaning (spec/60_exceptions.md R231, R236). Each is safe: no
claim holds of a run that contains one. -/
inductive Refusal where
  /-- Raised by exec's arm of an instruction that has no meaning yet. Safe. -/
  | notModelled (mnemonic : String)
  /-- `ReservedEncoding`: raised by step on a word that selects no row (R77). Safe. -/
  | reservedEncoding
  /-- `NotBegun`: raised by every operation but BEGIN while Uninitialized (R235). Safe. -/
  | notBegun
  /-- `AfterFailedBegin`: raised by every operation while FAILED = 1 (R234). Safe. -/
  | afterFailedBegin
  /-- `BeginWhenReady`: raised by BEGIN while Ready (R237). Safe. -/
  | beginWhenReady
deriving DecidableEq, Repr

/-- The outcome of an operation (R14, R231). -/
abbrev Result := Host.Outcome State Fault Refusal

/-- The machine right after reset (R41, R260) of a block configured as `c`. The registers and the
framebuffer bytes that R41 leaves unspecified hold the free values of `epoch`. -/
def State.resetWith (c : Config) (epoch : Nat) : State where
  cfg := c
  phase := .uninitialized
  failed := false
  scrolling := false
  rot := .deg0
  variant := (Config.powerOn epoch).variant
  vcc := (Config.powerOn epoch).vcc
  normcon := (Config.powerOn epoch).normcon
  contrast := (Config.powerOn epoch).contrast
  invert := (Config.powerOn epoch).invert
  dim := (Config.powerOn epoch).dim
  fb := imageFrom (Config.fbPowerOn epoch) 0 (fbBytes c)
  tx := []
  res := (Config.powerOn epoch).res
  bmp := []
  host := []
  epoch := epoch

/-- The machine right after reset, of an instance of any configuration (notes/assumptions/2.md). -/
def State.reset : State := State.resetWith Config.board 0

end Sys2Proof.Machine
end

