-- ==== Sys2Proof/Machine/Ops.lean ====
section
/-! DEFINITION. The named updates of State that the meanings are written with. The block has no
exceptions (spec/60_exceptions.md R243): what stands in their place is the reported failure of BEGIN,
`State.failBegin`, and the way out of it, the reset `State.hostReset` (R244). -/

namespace Sys2Proof.Machine

/-- `RES <- r`: the operation is done (R14, R36). -/
def State.withRes (s : State) (r : Bool) : State := { s with res := r }

/-- `TX <- TX ++ l` (R13, R35). -/
def State.send (s : State) (l : List TxByte) : State := { s with tx := s.tx ++ l }

/-- `FB` becomes `m`. -/
def State.withFb (s : State) (m : Memory) : State := { s with fb := m }

/-- `ROT <- rot` (R103). -/
def State.withRot (s : State) (rot : Rot) : State := { s with rot := rot }

/-- `INVERT <- enable` (R201). -/
def State.withInvert (s : State) (enable : Bool) : State := { s with invert := enable }

/-- `CONTRAST <- v`, `DIM <- enable` (R202). -/
def State.withContrast (s : State) (v : Byte) (enable : Bool) : State :=
  { s with contrast := v, dim := enable }

/-- `SCROLLING <- b` (R206, R210). -/
def State.withScrolling (s : State) (b : Bool) : State := { s with scrolling := b }

/-- The reported failure (R160, R232, R233, R243): `FAILED <- 1`, `RES <- 0`, "nothing else changes;
nothing is sent". -/
def State.failBegin (s : State) : State := { s with failed := true, res := false }

/-- A successful BEGIN's session values (R160). -/
def State.populate (s : State) (vcc : Vcc) (variant : Variant) : State :=
  { s with
    variant := variant
    vcc := vcc
    normcon := Config.normalContrast s.cfg.physW s.cfg.physH vcc
    contrast := Config.normalContrast s.cfg.physW s.cfg.physH vcc
    invert := false
    dim := false
    scrolling := false
    phase := .ready }

/-- `Cs(l)`: every byte of `l` tagged command (R13). -/
def asCommands (l : List Byte) : List TxByte := l.map .command

/-- `tx_dc` (R38): 0 for command, 1 for data. -/
def TxByte.isData : TxByte → Bool
  | .command _ => false
  | .data _ => true

/-- `tx_byte` (R38). -/
def TxByte.byte : TxByte → Byte
  | .command b => b
  | .data b => b

/-- `BMP[i]` (R37): the byte the host provides, or any value where it provides none
(spec/93_implementation_defined.md U17). -/
def readBitmap (s : State) (i : Nat) : Byte :=
  match s.bmp[i]? with
  | some b => b
  | none => Config.bmpUnprovided s.epoch i

/-- The host presents a command (R38): its event is consumed, its bitmap stands at the port for this
operation, and the free values of this operation are its own. -/
def State.present (s : State) (bmp : List Byte) (rest : List HostEvent) : State :=
  { s with bmp := bmp, host := rest, epoch := s.epoch + 1 }

/-- `rst` (R41, R260): the straps are sampled, every piece of state takes its reset value, unspecified
ones a new free value; the rest of the configuration is the instance's and stays (R8). -/
def State.hostReset (s : State) (physW physH : BitVec 8) (zoom : BitVec 4)
    (rest : List HostEvent) : State :=
  { State.resetWith { s.cfg with physW := physW, physH := physH, zoom := zoom } (s.epoch + 1) with
    host := rest }

end Sys2Proof.Machine
end

