-- ==== Sys2Proof/Machine/Flags.lean ====
section
/-! DEFINITION. The status bits that decide admission, PHASE and FAILED (spec/60_exceptions.md R234 to
R237), tested in the order of R242. The block has no condition flags; its one result bit is RES, written
by `State.withRes`. -/

namespace Sys2Proof.Machine

/-- Admission of every operation but BEGIN (R234, R235; order R242): the reason it is refused, or none. -/
def refusesOperation (s : State) : Option Refusal :=
  if s.failed then some .afterFailedBegin
  else
    match s.phase with
    | .uninitialized => some .notBegun
    | .ready => none

/-- Admission of BEGIN (R234, R237; order R242). -/
def refusesBegin (s : State) : Option Refusal :=
  if s.failed then some .afterFailedBegin
  else
    match s.phase with
    | .uninitialized => none
    | .ready => some .beginWhenReady

/-- The outcome of an operation whose effect is `t`, unless it is refused. -/
def unlessRefused (reason : Option Refusal) (t : State) : Result :=
  match reason with
  | some r => .refused r
  | none => .next t

/-- An operation other than BEGIN, whose effect is `t`. -/
def whenReady (s t : State) : Result := unlessRefused (refusesOperation s) t

end Sys2Proof.Machine
end

