-- ==== Sys2Proof/Machine/Operands.lean ====
section
/-! DEFINITION. From operands to framebuffer bits: the rotation remap, `Pack`, the one addressing mode of
the block (spec/40_pixel_engine.md R101, R102, R113), and what a colour does to a byte (R104). -/

namespace Sys2Proof.Machine

/-- `Remap` (R101): application coordinates to buffer coordinates, over the integers (R12). The
formulas are general knowledge the spec adopts (notes/assumptions/12.md). -/
def remap (c : Config) (rot : Rot) (x y : Int) : Int × Int :=
  match rot with
  | .deg0 => (x, y)
  | .deg90 => ((logicalWidth c : Int) - 1 - y, x)
  | .deg180 => ((logicalWidth c : Int) - 1 - x, (logicalHeight c : Int) - 1 - y)
  | .deg270 => (y, (logicalHeight c : Int) - 1 - x)

/-- `idx = (by div 8) * LW + bx` (spec/20_memory.md R51). -/
def byteIndex (c : Config) (bx row : Nat) : Nat := row / 8 * logicalWidth c + bx

/-- `bit = by mod 8` (R51). -/
def bitIndex (row : Nat) : Nat := row % 8

/-- `mask = 1 << bit` (R51). -/
def bitMask (bit : Nat) : Byte := 1#8 <<< bit

/-- What `Pack` gives when it is valid: the byte index and the bit index. The mask is `bitMask bit`. -/
structure PixelAddr where
  idx : Nat
  bit : Nat
deriving DecidableEq, Repr

/-- `Pack(ROT, x, y)` (R102): `none` is `valid` = 0. The range test is on the remapped coordinates. -/
def pack (c : Config) (rot : Rot) (x y : Int) : Option PixelAddr :=
  let b := remap c rot x y
  if 0 ≤ b.1 ∧ b.1 < logicalWidth c ∧ 0 ≤ b.2 ∧ b.2 < logicalHeight c then
    some ⟨byteIndex c b.1.toNat b.2.toNat, bitIndex b.2.toNat⟩
  else none

/-- A colour on the bits of `mask` (R104): AND with the complement, OR, XOR. -/
def applyColor (color : Color) (b mask : Byte) : Byte :=
  match color with
  | .off => b &&& ~~~mask
  | .on => b ||| mask
  | .invert => b ^^^ mask

/-- `Apply(color, idx, mask)` (R104). -/
def applyAt (color : Color) (m : Memory) (idx : Nat) (mask : Byte) : Memory :=
  writeByte m idx (applyColor color (readByte m idx) mask)

/-- One pixel of R105, R107, R108: `if valid: Apply(color, idx, mask)`. -/
def paintPixel (c : Config) (rot : Rot) (color : Color) (m : Memory) (x y : Int) : Memory :=
  match pack c rot x y with
  | some p => applyAt color m p.idx (bitMask p.bit)
  | none => m

/-- The pixel at buffer coordinate (bx, by), `FB[idx][bit]` (R51). -/
def bufferPixel (c : Config) (m : Memory) (bx row : Nat) : Bool :=
  (readByte m (byteIndex c bx row)).getLsbD (bitIndex row)

end Sys2Proof.Machine
end

