-- ==== Sys2Proof/Machine/Expander.lean ====
section
/-! DEFINITION. Unit U2, the pure functions of the zoom LUT expander (spec/41_zoom_expander.md R131 to
R136). The tables are constants: no state holds them and nothing writes them (spec/10_state.md R34). -/

namespace Sys2Proof.Machine

/-- The table printed in R131. -/
def lut2Table : List Byte :=
  [0x00, 0x03, 0x0C, 0x0F, 0x30, 0x33, 0x3C, 0x3F, 0xC0, 0xC3, 0xCC, 0xCF, 0xF0, 0xF3, 0xFC, 0xFF]

/-- `LUT2[n]` (R131). -/
def lut2 (n : BitVec 4) : Byte := lut2Table.getD n.toNat 0

/-- The table printed in R132. -/
def lut4Table : List Byte := [0x00, 0x0F, 0xF0, 0xFF]

/-- `LUT4[n]` (R132). -/
def lut4 (n : BitVec 2) : Byte := lut4Table.getD n.toNat 0

/-- `Expand(Z, k, v)` (R133): the k-th physical byte of logical byte `v` at zoom `Z`. The last arm
answers for a zoom that is not legal, which no reachable run has (notes/assumptions/15.md). -/
def expand (z k : Nat) (v : Byte) : Byte :=
  match z with
  | 1 => v
  | 2 => lut2 (v.extractLsb' (k * groupBits 2) 4)
  | 4 => lut4 (v.extractLsb' (k * groupBits 4) 2)
  | 8 => if v.extractLsb' (k * groupBits 8) 1 = 1#1 then 0xFF else 0x00
  | _ => 0x00

/-- `ExpandSeq(Z, v)` (R134), the upper physical page first. -/
def expandSeq (z : Nat) (v : Byte) : List Byte := (List.range z).map fun k => expand z k v

/-- The index of the FB byte that shows at physical page `p`, column `x` (R136, R113). -/
def physIndex (c : Config) (p x : Nat) : Nat :=
  p / zoomFactor c * logicalWidth c + x / zoomFactor c

/-- `PhysByte(P, X)` (R136). -/
def physByte (c : Config) (m : Memory) (p x : Nat) : Byte :=
  expand (zoomFactor c) (p % zoomFactor c) (readByte m (physIndex c p x))

end Sys2Proof.Machine
end

