-- ==== Sys2Proof/Machine/Raster.lean ====
section
/-! DEFINITION. Unit U3, the shared procedures of transfers: `Region`, `Window`, `PagePrefix`, `Stream`
(spec/42_transfer_sequencer.md R164 to R170). -/

namespace Sys2Proof.Machine

/-- A window: the pages `p0..p1` and columns `x0..x1`, inclusive (R16). -/
structure Window where
  p0 : Nat
  p1 : Nat
  x0 : Nat
  x1 : Nat
deriving DecidableEq, Repr

/-- `Region(x, y, w, h)` (R164): clipped to the panel, rows rounded outward to pages; `none` is empty.
Integer arithmetic, no wrap (R12). -/
def region (c : Config) (x y w h : Int) : Option Window :=
  let xa := max x 0
  let xb := min (x + w) (physWidth c) - 1
  let ya := max y 0
  let yb := min (y + h) (physHeight c) - 1
  if w ≤ 0 ∨ h ≤ 0 ∨ xa > xb ∨ ya > yb then none
  else some ⟨ya.toNat / 8, yb.toNat / 8, xa.toNat, xb.toNat⟩

/-- The whole panel (R162). -/
def fullWindow (c : Config) : Window := ⟨0, physPages c - 1, 0, physWidth c - 1⟩

/-- `lo` of R167: the low-column command with `col[3:0]`, `col = X0 + SH_COL_OFFSET`. -/
def lowColumn (c : Config) (x0 : Nat) : Byte :=
  c.cmdSetLowColumn ||| .ofNat 8 ((x0 + c.shColOffset) % 16)

/-- `hi` of R167: the high-column command with `col[7:4]`; higher bits of the column are lost. -/
def highColumn (c : Config) (x0 : Nat) : Byte :=
  c.cmdSetHighColumn ||| .ofNat 8 ((x0 + c.shColOffset) / 16 % 16)

/-- `Window(VARIANT, P0, P1, X0, X1)` (R166 to R168). -/
def windowCommands (c : Config) (variant : Variant) (win : Window) : List TxByte :=
  match variant with
  | .ssd1306 =>
    [ .command c.cmdPageAddr, .command (.ofNat 8 win.p0), .command (.ofNat 8 win.p1),
      .command c.cmdColumnAddr, .command (.ofNat 8 win.x0), .command (.ofNat 8 win.x1) ]
  | .sh1106 =>
    if c.shPerPage then []
    else
      [ .command c.cmdPageAddr, .command (.ofNat 8 win.p0), .command (.ofNat 8 win.p1),
        .command (lowColumn c win.x0), .command (highColumn c win.x0) ]

/-- `PagePrefix(VARIANT, P, X0)` (R166 to R168). -/
def pagePrefix (c : Config) (variant : Variant) (p x0 : Nat) : List TxByte :=
  match variant with
  | .ssd1306 => []
  | .sh1106 =>
    if c.shPerPage then
      [ .command (c.cmdSetPage ||| .ofNat 8 (p % 16)),
        .command (lowColumn c x0), .command (highColumn c x0) ]
    else []

/-- The pages of a window, top to bottom. -/
def Window.pages (win : Window) : List Nat := List.range' win.p0 (win.p1 + 1 - win.p0)

/-- The columns of a window, left to right. -/
def Window.columns (win : Window) : List Nat := List.range' win.x0 (win.x1 + 1 - win.x0)

/-- What `Stream(P0, P1, X0, X1, f)` appends to TX (R170): the window, then page by page its prefix and
its data bytes, left to right. -/
def stream (c : Config) (variant : Variant) (win : Window) (f : Nat → Nat → Byte) : List TxByte :=
  windowCommands c variant win ++
    win.pages.flatMap fun p =>
      pagePrefix c variant p win.x0 ++ win.columns.map fun x => .data (f p x)

end Sys2Proof.Machine
end

