-- ==== Sys2Proof/Machine/Bitmap.lean ====
section
/-! DEFINITION. Unit U2's operation, BLIT (spec/41_zoom_expander.md R139, R140): the spec's own
definition (notes/assumptions/17.md). -/

namespace Sys2Proof.Machine

/-- The part of the panel the expanded bitmap covers (R140): `none` where nothing is sent. -/
def blitWindow (c : Config) (px py bw bh : Nat) : Option Window :=
  let pb := py / 8
  let x1 : Int := min (px + bw * zoomFactor c : Nat) (physWidth c) - 1
  let p1 : Int := min (pb + ceilDiv8 bh * zoomFactor c : Nat) (physPages c) - 1
  if bw = 0 ∨ bh = 0 ∨ px > x1 ∨ pb > p1 then none
  else some ⟨pb, p1.toNat, px, x1.toNat⟩

/-- The index `s * bw + cs` of the bitmap byte for page `p`, column `x` (R139, R140). -/
def blitIndex (c : Config) (px py bw : Nat) (mirror : Bool) (p x : Nat) : Nat :=
  let column := (x - px) / zoomFactor c
  (p - py / 8) / zoomFactor c * bw + (if mirror then bw - 1 - column else column)

/-- `Src(P, X)` (R140): the bitmap byte, complemented if asked, then expanded. -/
def blitByte (s : State) (px py bw : Nat) (mirror invert : Bool) (p x : Nat) : Byte :=
  let v := readBitmap s (blitIndex s.cfg px py bw mirror p x)
  expand (zoomFactor s.cfg) ((p - py / 8) % zoomFactor s.cfg) (if invert then ~~~v else v)

/-- What BLIT appends to TX. -/
def blitBytes (s : State) (px py bw bh : Nat) (mirror invert : Bool) : List TxByte :=
  match blitWindow s.cfg px py bw bh with
  | some win => stream s.cfg s.variant win (blitByte s px py bw mirror invert)
  | none => []

/-- BLIT (R140): FB is neither read nor written, INVERT is not changed. -/
def execBlit (px py bw bh : Nat) (mirror invert : Bool) (s : State) : Result :=
  whenReady s ((s.send (blitBytes s px py bw bh mirror invert)).withRes false)

end Sys2Proof.Machine
end

