-- ==== Sys2Proof/Machine/Display.lean ====
section
/-! DEFINITION. Unit U3, display control: SETINV, SETDIM, the four scroll starts, SCRSTOP
(spec/43_display_control.md R200 to R210). Every byte they send is tagged command. -/

namespace Sys2Proof.Machine

/-- SETINV (R201): the operand decides the byte, not the previous INVERT. -/
def execSetinv (enable : Bool) (s : State) : Result :=
  whenReady s
    (((s.send [.command (if enable then s.cfg.cmdInvertDisplay else s.cfg.cmdNormalDisplay)]).withInvert
      enable).withRes false)

/-- The contrast SETDIM sends (R202). -/
def dimValue (s : State) (enable : Bool) : Byte := if enable then s.cfg.dimContrast else s.normcon

/-- SETDIM (R202). -/
def execSetdim (enable : Bool) (s : State) : Result :=
  whenReady s
    (((s.send [.command s.cfg.cmdSetContrast, .command (dimValue s enable)]).withContrast
      (dimValue s enable) enable).withRes false)

/-- `ScrollSeq(kind, start, stop, PHYS_H)` (R205): finite and non-empty. -/
def scrollSeq (c : Config) (kind : ScrollKind) (start stop : Byte) : List Byte :=
  let l := Config.scrollBytes kind start stop c.physH
  l.1 :: l.2

/-- A scroll start (R206): the pages are passed unchecked. -/
def startScroll (kind : ScrollKind) (start stop : Byte) (s : State) : State :=
  ((s.send (asCommands (scrollSeq s.cfg kind start stop))).withScrolling true).withRes false

/-- SCRR (R206). -/
def execScrr (start stop : Byte) (s : State) : Result :=
  whenReady s (startScroll .right start stop s)

/-- SCRL (R207). -/
def execScrl (start stop : Byte) (s : State) : Result :=
  whenReady s (startScroll .left start stop s)

/-- SCRDR (R208). -/
def execScrdr (start stop : Byte) (s : State) : Result :=
  whenReady s (startScroll .diagRight start stop s)

/-- SCRDL (R209). -/
def execScrdl (start stop : Byte) (s : State) : Result :=
  whenReady s (startScroll .diagLeft start stop s)

/-- SCRSTOP (R210): the byte is sent whatever SCROLLING holds. -/
def execScrstop (s : State) : Result :=
  whenReady s
    (((s.send [.command s.cfg.cmdDeactivateScroll]).withScrolling false).withRes false)

end Sys2Proof.Machine
end

