-- ==== Sys2Proof/Machine/PixelEngine.lean ====
section
/-! DEFINITION. Unit U1, the bit packer and the pixel engine: SETROT, SETPIX, GETPIX, HRUN, VRUN, CLEAR
(spec/40_pixel_engine.md). They append nothing to TX and never fail (R100). -/

namespace Sys2Proof.Machine

/-- SETROT (R103): ROT only; FB is not touched. -/
def execSetrot (rot : Rot) (s : State) : Result :=
  whenReady s ((s.withRot rot).withRes false)

/-- SETPIX (R105): a pixel outside the surface is silently ignored. -/
def execSetpix (x y : Int) (color : Color) (s : State) : Result :=
  whenReady s ((s.withFb (paintPixel s.cfg s.rot color s.fb x y)).withRes false)

/-- The pixel GETPIX returns (R106): false outside the surface. -/
def pixelAt (s : State) (x y : Int) : Bool :=
  match pack s.cfg s.rot x y with
  | some p => (readByte s.fb p.idx).getLsbD p.bit
  | none => false

/-- GETPIX (R106). -/
def execGetpix (x y : Int) (s : State) : Result :=
  whenReady s (s.withRes (pixelAt s x y))

/-- The pixels (x, y), (x + 1, y), ..., `len` of them, no iteration when `len <= 0` (R107). -/
def paintRow (c : Config) (rot : Rot) (color : Color) (m : Memory) (x y len : Int) : Memory :=
  (List.range len.toNat).foldl (fun m (i : Nat) => paintPixel c rot color m (x + (i : Int)) y) m

/-- HRUN (R107). -/
def execHrun (x y len : Int) (color : Color) (s : State) : Result :=
  whenReady s ((s.withFb (paintRow s.cfg s.rot color s.fb x y len)).withRes false)

/-- The pixels (x, y), (x, y + 1), ..., `len` of them, no iteration when `len <= 0` (R108). -/
def paintColumn (c : Config) (rot : Rot) (color : Color) (m : Memory) (x y len : Int) : Memory :=
  (List.range len.toNat).foldl (fun m (i : Nat) => paintPixel c rot color m x (y + (i : Int))) m

/-- VRUN (R108). -/
def execVrun (x y len : Int) (color : Color) (s : State) : Result :=
  whenReady s ((s.withFb (paintColumn s.cfg s.rot color s.fb x y len)).withRes false)

/-- CLEAR (R109): every byte of FB is 0x00, padding bits included. -/
def execClear (s : State) : Result :=
  whenReady s ((s.withFb zeroMemory).withRes false)

/-! ### The byte-level form of runs (R110) -/

/-- `m = ((1 << (hi - lo + 1)) - 1) << lo`: the bits of page `p` that rows `y0..y1` cover. -/
def pageMask (y0 y1 p : Nat) : Byte :=
  let lo := max y0 (8 * p) - 8 * p
  let hi := min y1 (8 * p + 7) - 8 * p
  .ofNat 8 ((2 ^ (hi - lo + 1) - 1) * 2 ^ lo)

/-- R110's loop over the pages of a clipped buffer-vertical run, column `bx`, rows `y0..y1`. -/
def paintColumnBytes (c : Config) (color : Color) (m : Memory) (bx y0 y1 : Nat) : Memory :=
  (List.range' (y0 / 8) (y1 / 8 + 1 - y0 / 8)).foldl
    (fun m p => applyAt color m (p * logicalWidth c + bx) (pageMask y0 y1 p)) m

/-- R110's buffer-horizontal run, row `row`, columns `x0..x1`: one mask on every byte. -/
def paintRowBytes (c : Config) (color : Color) (m : Memory) (row x0 x1 : Nat) : Memory :=
  (List.range' x0 (x1 + 1 - x0)).foldl
    (fun m x => applyAt color m (byteIndex c x row) (bitMask (bitIndex row))) m

end Sys2Proof.Machine
end

