-- ==== Sys2Proof/Machine/Sequencer.lean ====
section
/-! DEFINITION. Unit U3, start-up and transfers: BEGIN, XFERFULL, XFERRGN (spec/42_transfer_sequencer.md
R160 to R163). -/

namespace Sys2Proof.Machine

/-- A successful BEGIN (R160): the session is populated and the init sequence sent. -/
def State.startUp (s : State) (vcc : Vcc) (variant : Variant) : State :=
  ((s.populate vcc variant).send
    (asCommands (Config.initSeq s.cfg.physW s.cfg.physH vcc variant))).withRes true

/-- BEGIN (R160, R232, R233): the checks precede any byte sent. -/
def execBegin (vcc : Vcc) (variant : Variant) (s : State) : Result :=
  unlessRefused (refusesBegin s)
    (if configUsable s.cfg then s.startUp vcc variant else s.failBegin)

/-- XFERFULL (R162): FB is read only. -/
def execXferfull (s : State) : Result :=
  whenReady s
    ((s.send (stream s.cfg s.variant (fullWindow s.cfg) (physByte s.cfg s.fb))).withRes false)

/-- What XFERRGN appends to TX: nothing for an empty region (R163). -/
def regionBytes (s : State) (x y w h : Int) : List TxByte :=
  match region s.cfg x y w h with
  | some win => stream s.cfg s.variant win (physByte s.cfg s.fb)
  | none => []

/-- XFERRGN (R163): physical coordinates, ROT does not apply. -/
def execXferrgn (x y w h : Int) (s : State) : Result :=
  whenReady s ((s.send (regionBytes s x y w h)).withRes false)

end Sys2Proof.Machine
end

