-- ==== Sys2Proof/Machine/Dispatch.lean ====
section
/-! DEFINITION. One arm per operation (spec/30_encoding.md R75), in the table's order. -/

namespace Sys2Proof.Machine

def exec (i : Instr) (s : State) : Host.Outcome State Fault Refusal :=
  match i with
  | .begin vcc variant => Sys2Proof.Machine.execBegin vcc variant s
  | .clear => Sys2Proof.Machine.execClear s
  | .setrot rot => Sys2Proof.Machine.execSetrot rot s
  | .setpix x y color => Sys2Proof.Machine.execSetpix x y color s
  | .getpix x y => Sys2Proof.Machine.execGetpix x y s
  | .hrun x y len color => Sys2Proof.Machine.execHrun x y len color s
  | .vrun x y len color => Sys2Proof.Machine.execVrun x y len color s
  | .xferfull => Sys2Proof.Machine.execXferfull s
  | .xferrgn x y w h => Sys2Proof.Machine.execXferrgn x y w h s
  | .blit px py bw bh mirror invert => Sys2Proof.Machine.execBlit px py bw bh mirror invert s
  | .setinv enable => Sys2Proof.Machine.execSetinv enable s
  | .setdim enable => Sys2Proof.Machine.execSetdim enable s
  | .scrr start stop => Sys2Proof.Machine.execScrr start stop s
  | .scrl start stop => Sys2Proof.Machine.execScrl start stop s
  | .scrdr start stop => Sys2Proof.Machine.execScrdr start stop s
  | .scrdl start stop => Sys2Proof.Machine.execScrdl start stop s
  | .scrstop => Sys2Proof.Machine.execScrstop s

end Sys2Proof.Machine
end

