-- ==== Sys2Proof/Machine/Step.lean ====
section
/-! DEFINITION. One step of the machine: the next event of the host. An operation is one step and runs to
its end (spec/20_memory.md R62); the block does nothing until the host presents one (R261). -/

namespace Sys2Proof.Machine

/-- One step. A word that selects no row is refused before the state is looked at (R77, R242). -/
def step (s : State) : Host.Outcome State Fault Refusal :=
  match s.host with
  | [] => .next s
  | .reset physW physH zoom :: rest => .next (s.hostReset physW physH zoom rest)
  | .command word bmp :: rest =>
    match decode word with
    | .ok i => exec i (s.present bmp rest)
    | .error _ => .refused .reservedEncoding

/-- The host presents the word of the low `nbits` bits of `w` next, with the bitmap it presents now
(notes/assumptions/8.md). -/
def State.withFetchWord (s : State) (nbits w : Nat) : State :=
  { s with host := .command (tableWord nbits w) s.bmp :: s.host }

end Sys2Proof.Machine
end

