-- ==== Sys2Proof/Machine/Transport.lean ====
section
/-! DEFINITION. The contract with the transport adapter (spec/20_memory.md R59, R60): what a sequence TX
may look like on the wire. Nothing of it is read by the block (R61). -/

namespace Sys2Proof.Machine

/-- One send: a run of bytes of one tag ("one or more bytes", R59). -/
structure Run where
  isData : Bool
  bytes : List Byte
deriving DecidableEq, Repr

/-- The tagged bytes of a run. -/
def Run.tagged (r : Run) : List TxByte := r.bytes.map fun b => if r.isData then .data b else .command b

/-- `runs` is a partition of `tx` into non-empty runs of equal tag: each one is admitted (R60). -/
def partitions (tx : List TxByte) (runs : List Run) : Bool :=
  runs.all (fun r => !r.bytes.isEmpty) && runs.flatMap Run.tagged == tx

/-- The one-byte I2C prefix: 0x00 for a command stream, 0x40 for a data stream (R59). -/
def i2cPrefix (isData : Bool) : Byte := if isData then 0x40 else 0x00

/-- The SPI control line during a run; which level means command is open (R59). -/
def spiLevel (isData : Bool) : Bool := if isData then !Config.spiCommandLevel else Config.spiCommandLevel

/-- One bus transaction: the level of the control line where the framing has one, and the bytes. -/
structure Transaction where
  controlLine : Option Bool
  bytes : List Byte
deriving DecidableEq, Repr

/-- A run as the adapter sends it (R59): prefixed under I2C, unprefixed with the line set under SPI. -/
def transaction (t : Transport) (r : Run) : Transaction :=
  match t with
  | .i2c => ⟨none, i2cPrefix r.isData :: r.bytes⟩
  | .spi => ⟨some (spiLevel r.isData), r.bytes⟩

/-- A wire trace that TX admits under the configured framing (R59, R60). -/
def wireAdmits (c : Config) (tx : List TxByte) (wire : List Transaction) : Prop :=
  ∃ runs, partitions tx runs = true ∧ wire = runs.map (transaction c.transport)

end Sys2Proof.Machine
end

