-- ==== Sys2Proof/Safety.lean ====
section
/-! DEFINITION. What a good run is, in the terms claims use: the invariant of the machine and runs
without a refusal (spec/60_exceptions.md R236: "no claim holds of a run that contains one"). -/

namespace Sys2Proof.Machine

/-- What holds of every state a run reaches. -/
structure State.Inv (s : State) : Prop where
  /-- FB is written down in its one canonical form. -/
  fbCanonical : s.fb.wf = true
  /-- FB has FBSIZE bytes (R33): nothing is listed at or beyond them. -/
  fbBounded : Memory.below (fbBytes s.cfg) s.fb = true
  /-- Ready is entered only by a BEGIN whose checks passed (R160), and FAILED only by one whose checks
  did not. -/
  readyUsable : s.phase = .ready → configUsable s.cfg = true ∧ s.failed = false
  /-- FAILED records that the checks did not pass (R24, R160). -/
  failedUnusable : s.failed = true → configUsable s.cfg = false
  /-- Before Ready nothing has been sent, and SCROLLING and ROT hold their reset values (R41, R235). -/
  uninitializedSilent : s.phase = .uninitialized → s.tx = [] ∧ s.scrolling = false ∧ s.rot = .deg0
  /-- In Ready the init sequence stands first in TX (R264). -/
  readyInit : s.phase = .ready →
    ∃ later, s.tx = asCommands (Config.initSeq s.cfg.physW s.cfg.physH s.vcc s.variant) ++ later
  /-- NORMCON is BEGIN's choice, and CONTRAST the value last sent (R29, R30, R202). -/
  readyContrast : s.phase = .ready →
    s.normcon = Config.normalContrast s.cfg.physW s.cfg.physH s.vcc ∧
    s.contrast = if s.dim then s.cfg.dimContrast else s.normcon

/-- `k` steps from `s` end in a state: no refusal on the way. -/
def Completes (k : Nat) (s : State) : Prop := ∃ t, Sys2Proof.core.run k s = .next t

/-- The run from `s` never meets a refusal. -/
def NeverRefused (s : State) : Prop := ∀ k, Completes k s

/-- The block is Ready and no BEGIN has failed: every operation but BEGIN is admitted (R242). -/
def Admits (s : State) : Prop := s.phase = .ready ∧ s.failed = false

end Sys2Proof.Machine
end

