-- ==== Sys2Proof/Certificates/Slice0/Obligations.lean ====
section
/-! DEFINITION. The statements for the provers, and the few readings they are written with. A statement
holds for every configuration: the configuration is a field of the state. `Admits s` is PHASE = Ready and
FAILED = 0, exactly the condition under which R100, R159 and R200 admit an operation. -/

namespace Sys2Proof.Claims

open Sys2Proof.Machine

/-- Bit `bit` of `FB[idx]`. -/
def fbBit (m : Memory) (idx bit : Nat) : Bool := (readByte m idx).getLsbD bit

/-- "ON makes the pixel true, OFF false, and INVERT toggles the prior value" (R104). -/
def colored : Color → Bool → Bool
  | .off, _ => false
  | .on, _ => true
  | .invert, b => !b

/-- The application's drawing surface (R101): LW by LH at ROT 0 and 2, LH by LW at ROT 1 and 3. -/
def onSurface (c : Config) (rot : Rot) (x y : Int) : Prop :=
  match rot with
  | .deg0 => 0 ≤ x ∧ x < logicalWidth c ∧ 0 ≤ y ∧ y < logicalHeight c
  | .deg90 => 0 ≤ x ∧ x < logicalHeight c ∧ 0 ≤ y ∧ y < logicalWidth c
  | .deg180 => 0 ≤ x ∧ x < logicalWidth c ∧ 0 ≤ y ∧ y < logicalHeight c
  | .deg270 => 0 ≤ x ∧ x < logicalHeight c ∧ 0 ≤ y ∧ y < logicalWidth c

/-- A legal zoom factor (R9). -/
def legalZoom (z : Nat) : Prop := z = 1 ∨ z = 2 ∨ z = 4 ∨ z = 8

/-- The bytes sent as data, in order. -/
def dataBytes (l : List TxByte) : List Byte := (l.filter TxByte.isData).map TxByte.byte

/-- The bytes sent as commands, in order. -/
def commandBytes (l : List TxByte) : List Byte :=
  (l.filter fun t => !t.isData).map TxByte.byte

/-- The operations that may change a pixel one by one: SETPIX, HRUN, VRUN. -/
def paints : Instr → Bool
  | .setpix _ _ _ | .hrun _ _ _ _ | .vrun _ _ _ _ => true
  | _ => false

/-- The operations that read ROT (R20). -/
def readsRot : Instr → Bool
  | .setpix _ _ _ | .getpix _ _ | .hrun _ _ _ _ | .vrun _ _ _ _ => true
  | _ => false

/-- The operations that read VARIANT (R20, R169). -/
def readsVariant : Instr → Bool
  | .xferfull | .xferrgn _ _ _ _ | .blit _ _ _ _ _ _ => true
  | _ => false

/-- The operations that read FB (R20). -/
def readsFb : Instr → Bool
  | .setpix _ _ _ | .getpix _ _ | .hrun _ _ _ _ | .vrun _ _ _ _ | .xferfull | .xferrgn _ _ _ _ => true
  | _ => false

/-- The operations that read NORMCON (R20). -/
def readsNormcon : Instr → Bool
  | .setdim _ => true
  | _ => false

/-- BEGIN. -/
def isBegin : Instr → Bool
  | .begin _ _ => true
  | _ => false

/-- The operations that write SCROLLING (R20). -/
def writesScrolling : Instr → Bool
  | .begin _ _ => true
  | .clear => false
  | .setrot _ => false
  | .setpix _ _ _ => false
  | .getpix _ _ => false
  | .hrun _ _ _ _ => false
  | .vrun _ _ _ _ => false
  | .xferfull => false
  | .xferrgn _ _ _ _ => false
  | .blit _ _ _ _ _ _ => false
  | .setinv _ => false
  | .setdim _ => false
  | .scrr _ _ => true
  | .scrl _ _ => true
  | .scrdr _ _ => true
  | .scrdl _ _ => true
  | .scrstop => true

/-- The operations that write ROT (R20). -/
def writesRot : Instr → Bool
  | .setrot _ => true
  | _ => false

/-- The operations that write CONTRAST and DIM (R20). -/
def writesContrast : Instr → Bool
  | .begin _ _ | .setdim _ => true
  | _ => false

/-- The operations that write INVERT (R20). -/
def writesInvert : Instr → Bool
  | .begin _ _ | .setinv _ => true
  | _ => false

/-- The operations that write FB (R20). -/
def writesFb : Instr → Bool
  | .setpix _ _ _ | .hrun _ _ _ _ | .vrun _ _ _ _ | .clear => true
  | _ => false

/-- The operations that append to TX (R50 (c)). -/
def sends : Instr → Bool
  | .begin _ _ => true
  | .clear => false
  | .setrot _ => false
  | .setpix _ _ _ => false
  | .getpix _ _ => false
  | .hrun _ _ _ _ => false
  | .vrun _ _ _ _ => false
  | .xferfull => true
  | .xferrgn _ _ _ _ => true
  | .blit _ _ _ _ _ _ => true
  | .setinv _ => true
  | .setdim _ => true
  | .scrr _ _ => true
  | .scrl _ _ => true
  | .scrdr _ _ => true
  | .scrdl _ _ => true
  | .scrstop => true

/-- `VALIDCFG` as R9 writes it. -/
def validCfg (c : Config) : Prop :=
  legalZoom c.zoom.toNat ∧ 0 < c.physW.toNat ∧ 0 < c.physH.toNat ∧
  c.physW.toNat % c.zoom.toNat = 0 ∧ c.physH.toNat % c.zoom.toNat = 0

/-- `FBSIZE` as R9 writes it. -/
def fbSizeOf (c : Config) : Nat :=
  (c.physH.toNat / c.zoom.toNat + 7) / 8 * (c.physW.toNat / c.zoom.toNat)

/-- The host's next event is a reset. -/
def nextIsReset (s : State) : Prop := ∃ w h z rest, s.host = .reset w h z :: rest

/-- The host's next event is a word that decodes to `i`. -/
def nextIs (s : State) (i : Instr) : Prop :=
  ∃ word bmp rest, s.host = .command word bmp :: rest ∧ decode word = .ok i

/-- The bytes of an I2C transaction read back: the prefix gives the tag (R59). -/
def unprefix (w : Transaction) : List TxByte :=
  match w.bytes with
  | [] => []
  | p :: bs => bs.map fun b => if p = 0x40 then .data b else .command b

end Sys2Proof.Claims

open Sys2Proof Sys2Proof.Machine Sys2Proof.Claims

/-! ### Encoding -/

/-- Words written out from R70, R72 to R75: the examples R160, R109, R103, R105, R163 and R209 print,
one of spec/95_test_vectors.md V15, and an HRUN at its extremes. A sanity statement. -/
def Obligations.PrintedWordsDecode : Prop :=
  decode 0x01000000000000000000 = .ok (.begin .internal .ssd1306) ∧
  decode 0x02000000000000000000 = .ok .clear ∧
  decode 0x03010000000000000000 = .ok (.setrot .deg90) ∧
  decode 0x10010003000A00000000 = .ok (.setpix 3 10 .on) ∧
  decode 0x12018000FFFB7FFF0000 = .ok (.hrun (-32768) (-5) 32767 .on) ∧
  decode 0x21000003000A00040003 = .ok (.xferrgn 3 10 4 3) ∧
  decode 0x2203FFFF000000010008 = .ok (.blit 65535 0 1 8 true true) ∧
  decode 0x3B000002000500000000 = .ok (.scrdl 2 5)

/-- Every operation a command word can carry is read back from its word (R70, R72 to R75). -/
def Obligations.DecodeEncode : Prop :=
  ∀ i : Instr, i.wellFormed = true → decode (encode i) = .ok i

/-- The other direction: an operation has one word, and the decoder gives only operations a word can
carry (R75, R77: a non-zero must-be-0 bit is never dropped). -/
def Obligations.EncodeDecode : Prop :=
  ∀ (w : CmdWord) (i : Instr), decode w = .ok i → i.wellFormed = true ∧ encode i = w

/-- R75: "a word `w` selects the row when `w & mask = match` (and, for rows with a colour, when
`fl[1:0] != 3`)": the decoder accepts exactly the words that select a row, and the operation is the
row's. -/
def Obligations.DecodeFollowsTheTable : Prop :=
  ∀ w : CmdWord,
    ((∃ i, decode w = .ok i) ↔ ∃ r ∈ opcodeTable, r.selects w = true) ∧
    ∀ i r, decode w = .ok i → r ∈ opcodeTable → r.selects w = true → i.mnemonic = r.mnemonic

/-- No word selects two rows of R75. -/
def Obligations.RowsAreDisjoint : Prop :=
  ∀ (w : CmdWord) (r r' : OpcodeRow), r ∈ opcodeTable → r' ∈ opcodeTable →
    r.selects w = true → r'.selects w = true → r = r'

/-- R77: every word that selects no row is refused with ReservedEncoding whatever the state, and no
other word is. -/
def Obligations.ReservedWordsRefused : Prop :=
  ∀ (s : State) (w : CmdWord) (bmp : List Byte) (rest : List HostEvent),
    s.host = .command w bmp :: rest →
    ((∀ r ∈ opcodeTable, r.selects w = false) ↔ step s = .refused .reservedEncoding)

/-! ### The step -/

/-- A step runs the decoded operation. The event is consumed, its bitmap stands at the port, and the
model's counter moves on; nothing else is changed before the operation. -/
def Obligations.StepRunsTheDecodedOperation : Prop :=
  ∀ (s : State) (w : CmdWord) (bmp : List Byte) (rest : List HostEvent) (i : Instr),
    s.host = .command w bmp :: rest → decode w = .ok i →
    step s = exec i { s with bmp := bmp, host := rest, epoch := s.epoch + 1 }

/-- The word `withFetchWord` places is the one the next step runs. -/
def Obligations.PlacedWordRunsNext : Prop :=
  ∀ (s : State) (w : Nat) (i : Instr), decodeTableWord 80 w = some i →
    step (s.withFetchWord 80 w) = exec i { s with epoch := s.epoch + 1 }

/-- R261: with no event of the host the block does nothing; and R41, R260: a reset samples the straps
and gives every piece of state R41 names a value its value, whatever the state was. That the events the
host has still to send survive a reset is the model's choice (notes/assumptions/18.md). -/
def Obligations.IdleAndReset : Prop :=
  (∀ s : State, s.host = [] → step s = .next s) ∧
  ∀ (s : State) (w h : BitVec 8) (z : BitVec 4) (rest : List HostEvent),
    s.host = .reset w h z :: rest →
    ∃ t, step s = .next t ∧ t.cfg = { s.cfg with physW := w, physH := h, zoom := z } ∧
      t.phase = .uninitialized ∧ t.failed = false ∧ t.scrolling = false ∧ t.rot = .deg0 ∧
      t.tx = [] ∧ t.host = rest

/-- The invariant holds after reset, of every configuration and whatever the free values are. -/
def Obligations.ResetMeetsTheInvariant : Prop :=
  State.reset.Inv ∧ ∀ (c : Config) (n : Nat), (State.resetWith c n).Inv

/-- Every step keeps the invariant: FB stays in canonical form and within FBSIZE (R33), Ready means a
legal configuration (R160), the init sequence stays first in TX (R264), CONTRAST stays the value last
sent (R30). -/
def Obligations.StepKeepsTheInvariant : Prop :=
  ∀ s t : State, s.Inv → step s = .next t → t.Inv

/-- The invariant holds along every run from a state that has it. -/
def Obligations.RunKeepsTheInvariant : Prop :=
  ∀ (k : Nat) (s t : State), s.Inv → Sys2Proof.core.run k s = .next t → t.Inv

/-! ### Admission -/

/-- R242: reserved encoding, then FAILED, then NotBegun, then BeginWhenReady, then BEGIN's two failures;
the first that applies decides. -/
def Obligations.AdmissionOrder : Prop :=
  ∀ (s : State) (w : CmdWord) (bmp : List Byte) (rest : List HostEvent),
    s.host = .command w bmp :: rest →
    ((∃ e, decode w = .error e) → step s = .refused .reservedEncoding) ∧
    ∀ i, decode w = .ok i →
      (s.failed = true → step s = .refused .afterFailedBegin) ∧
      (s.failed = false → s.phase = .uninitialized → isBegin i = false →
        step s = .refused .notBegun) ∧
      (s.failed = false → s.phase = .ready → isBegin i = true → step s = .refused .beginWhenReady) ∧
      (s.failed = false → s.phase = .uninitialized → isBegin i = true →
        (¬ validCfg s.cfg ∨ s.cfg.fbCapacity < fbSizeOf s.cfg) →
        ∃ t, step s = .next t ∧ t.failed = true ∧ t.res = false)

/-- R231: a step ends in a next state or in one of the four refusals, and in nothing else. -/
def Obligations.OutcomesAreTheListed : Prop :=
  ∀ s : State, (∃ t, step s = .next t) ∨ step s = .refused .reservedEncoding ∨
    step s = .refused .notBegun ∨ step s = .refused .afterFailedBegin ∨
    step s = .refused .beginWhenReady

/-- The whole start-up order of R263 and R235 as one line: an operation completes exactly where it is
admitted. -/
def Obligations.CompletesIffAdmitted : Prop :=
  ∀ (i : Instr) (s : State),
    (∃ t, exec i s = .next t) ↔
      s.failed = false ∧ (isBegin i = true ↔ s.phase = .uninitialized)

/-- R160: BEGIN, its two failures and its success, and its own two refusals. -/
def Obligations.BeginOutcomes : Prop :=
  ∀ (s : State) (vcc : Vcc) (variant : Variant),
    (s.failed = true → exec (.begin vcc variant) s = .refused .afterFailedBegin) ∧
    (s.failed = false → s.phase = .ready →
      exec (.begin vcc variant) s = .refused .beginWhenReady) ∧
    (s.failed = false → s.phase = .uninitialized →
      ((¬ validCfg s.cfg ∨ s.cfg.fbCapacity < fbSizeOf s.cfg) →
        exec (.begin vcc variant) s = .next { s with failed := true, res := false }) ∧
      (validCfg s.cfg → fbSizeOf s.cfg ≤ s.cfg.fbCapacity →
        exec (.begin vcc variant) s = .next { s with
          variant := variant
          vcc := vcc
          normcon := Config.normalContrast s.cfg.physW s.cfg.physH vcc
          contrast := Config.normalContrast s.cfg.physW s.cfg.physH vcc
          invert := false
          dim := false
          scrolling := false
          tx := s.tx ++ (Config.initSeq s.cfg.physW s.cfg.physH vcc variant).map .command
          phase := .ready
          res := true }))

/-! ### Unit U1: the pixel engine -/

/-- R9: what VALIDCFG gives the derived constants, and the largest framebuffer the straps allow. -/
def Obligations.GeometryOfValidConfigurations : Prop :=
  ∀ c : Config, validCfg c →
    logicalWidth c * zoomFactor c = c.physW.toNat ∧ logicalHeight c * zoomFactor c = c.physH.toNat ∧
    0 < logicalWidth c ∧ 0 < logicalHeight c ∧ fbSize c = fbSizeOf c ∧ fbSize c ≤ 8160 ∧
    logicalHeight c ≤ 8 * logicalPages c ∧ physPages c ≤ 32

/-- The remap formulas, as the spec takes them: general knowledge it marks as its own
(notes/assumptions/12.md). -/
def Obligations.RemapFormulas : Prop :=
  ∀ (c : Config) (x y : Int),
    remap c .deg0 x y = (x, y) ∧
    remap c .deg90 x y = ((logicalWidth c : Int) - 1 - y, x) ∧
    remap c .deg180 x y = ((logicalWidth c : Int) - 1 - x, (logicalHeight c : Int) - 1 - y) ∧
    remap c .deg270 x y = (y, (logicalHeight c : Int) - 1 - x)

/-- R101, R102: `Pack` is the remap, the range test and the index formula, at every rotation; it is
valid exactly on the application's surface, and two pixels of the surface never share a bit. The surface
and the third clause rest on the remap formulas, which the spec marks as its own
(notes/assumptions/12.md). -/
def Obligations.PackIsTheMapping : Prop :=
  ∀ (c : Config) (rot : Rot) (x y : Int),
    (pack c rot x y ≠ none ↔ onSurface c rot x y) ∧
    (∀ idx bit, pack c rot x y = some ⟨idx, bit⟩ ↔
      ∃ bx row : Nat, remap c rot x y = ((bx : Int), (row : Int)) ∧ bx < logicalWidth c ∧
        row < logicalHeight c ∧ idx = row / 8 * logicalWidth c + bx ∧ bit = row % 8) ∧
    (∀ x' y', onSurface c rot x y → pack c rot x' y' = pack c rot x y → x' = x ∧ y' = y)

/-- R58, an inference of the spec: no rule computes an index outside FB, neither `Pack` nor `PhysByte`.
-/
def Obligations.IndicesStayInside : Prop :=
  ∀ c : Config,
    (∀ rot x y p, pack c rot x y = some p → p.idx < fbSize c ∧ p.bit ≤ 7) ∧
    (validCfg c → ∀ p x, p < physPages c → x < c.physW.toNat → physIndex c p x < fbSize c)

/-- R103: SETROT changes ROT and nothing else. -/
def Obligations.SetrotSetsRotOnly : Prop :=
  ∀ (s : State) (rot : Rot), Admits s →
    exec (.setrot rot) s = .next { s with rot := rot, res := false }

/-- R105: SETPIX applies the colour to the bit `Pack` names, and leaves every other bit of FB and every
other piece of state alone; where `Pack` is not valid nothing is written. -/
def Obligations.SetpixPaintsOnePixel : Prop :=
  ∀ (s : State) (x y : Int) (color : Color), Admits s → s.fb.wf = true →
    ∃ t, exec (.setpix x y color) s = .next t ∧ t = { s with fb := t.fb, res := false } ∧
      ∀ idx bit, bit < 8 →
        fbBit t.fb idx bit =
          if pack s.cfg s.rot x y = some ⟨idx, bit⟩ then colored color (fbBit s.fb idx bit)
          else fbBit s.fb idx bit

/-- R106: GETPIX returns the bit `Pack` names, 0 where `Pack` is not valid, and writes nothing. -/
def Obligations.GetpixReturnsThePixel : Prop :=
  ∀ (s : State) (x y : Int), Admits s →
    (∀ p, pack s.cfg s.rot x y = some p →
      exec (.getpix x y) s = .next { s with res := fbBit s.fb p.idx p.bit }) ∧
    (pack s.cfg s.rot x y = none → exec (.getpix x y) s = .next { s with res := false })

/-- R107: HRUN applies the colour once to each bit that `Pack` names for a pixel of the run, at every
rotation, and to no other bit; nothing else is written. -/
def Obligations.HrunPaintsTheRun : Prop :=
  ∀ (s : State) (x y len : Int) (color : Color), Admits s → s.fb.wf = true →
    ∃ t, exec (.hrun x y len color) s = .next t ∧ t = { s with fb := t.fb, res := false } ∧
      ∀ idx bit, bit < 8 →
        (∀ k : Nat, (k : Int) < len → pack s.cfg s.rot (x + k) y = some ⟨idx, bit⟩ →
          fbBit t.fb idx bit = colored color (fbBit s.fb idx bit)) ∧
        ((∀ k : Nat, (k : Int) < len → pack s.cfg s.rot (x + k) y ≠ some ⟨idx, bit⟩) →
          fbBit t.fb idx bit = fbBit s.fb idx bit)

/-- R108: VRUN, with the axes exchanged. -/
def Obligations.VrunPaintsTheRun : Prop :=
  ∀ (s : State) (x y len : Int) (color : Color), Admits s → s.fb.wf = true →
    ∃ t, exec (.vrun x y len color) s = .next t ∧ t = { s with fb := t.fb, res := false } ∧
      ∀ idx bit, bit < 8 →
        (∀ k : Nat, (k : Int) < len → pack s.cfg s.rot x (y + k) = some ⟨idx, bit⟩ →
          fbBit t.fb idx bit = colored color (fbBit s.fb idx bit)) ∧
        ((∀ k : Nat, (k : Int) < len → pack s.cfg s.rot x (y + k) ≠ some ⟨idx, bit⟩) →
          fbBit t.fb idx bit = fbBit s.fb idx bit)

/-- The clipping property R107 quotes: at ROT 0 a horizontal run of length L starting at column x, row y
of the framebuffer paints exactly the `min(L, LW - x)` pixels from x on and no others. -/
def Obligations.HrunClipsAtTheRightEdge : Prop :=
  ∀ (s : State) (x y len : Nat) (color : Color), Admits s → s.fb.wf = true → s.rot = .deg0 →
    x < logicalWidth s.cfg → y < logicalHeight s.cfg →
    ∃ t, exec (.hrun x y len color) s = .next t ∧
      ∀ bx row, bx < logicalWidth s.cfg → row < logicalHeight s.cfg →
        bufferPixel s.cfg t.fb bx row =
          if row = y ∧ x ≤ bx ∧ bx < x + min len (logicalWidth s.cfg - x) then
            colored color (bufferPixel s.cfg s.fb bx row)
          else bufferPixel s.cfg s.fb bx row

/-- R110, an inference of the spec: the byte-level forms of a clipped run give the same framebuffer as
the pixel-by-pixel ones. -/
def Obligations.RunsAgreeWithTheirByteForm : Prop :=
  ∀ (c : Config) (m : Memory) (color : Color), m.wf = true →
    (∀ bx y0 y1, y0 ≤ y1 → y1 < logicalHeight c → bx < logicalWidth c →
      paintColumn c .deg0 color m bx y0 ((y1 : Int) - y0 + 1) =
        paintColumnBytes c color m bx y0 y1) ∧
    (∀ row x0 x1, x0 ≤ x1 → x1 < logicalWidth c → row < logicalHeight c →
      paintRow c .deg0 color m x0 row ((x1 : Int) - x0 + 1) = paintRowBytes c color m row x0 x1)

/-- R109: CLEAR zeroes the whole byte array, changes nothing else, and GETPIX afterwards returns 0
everywhere. -/
def Obligations.ClearZeroesEverything : Prop :=
  ∀ s : State, Admits s →
    ∃ t, exec .clear s = .next t ∧ t = { s with fb := t.fb, res := false } ∧
      (∀ i, readByte t.fb i = 0x00) ∧
      ∀ x y, exec (.getpix x y) t = .next { t with res := false }

/-- R111's laws: set then get gives 1, reset then get gives 0, INVERT toggles; outside the surface SETPIX is
a no-op and GETPIX returns 0, in any admitting state. The surface at ROT 1 to 3 is an inference of the spec
from the remap formulas, which it marks as general knowledge of its own (R101, notes/assumptions/12.md). -/
def Obligations.PixelLaws : Prop :=
  ∀ (s : State) (x y : Int), Admits s → s.fb.wf = true →
    (onSurface s.cfg s.rot x y →
      (∃ t, exec (.setpix x y .on) s = .next t ∧ exec (.getpix x y) t = .next { t with res := true }) ∧
      (∃ t, exec (.setpix x y .off) s = .next t ∧
        exec (.getpix x y) t = .next { t with res := false }) ∧
      (∃ v t, exec (.getpix x y) s = .next { s with res := v } ∧
        exec (.setpix x y .invert) s = .next t ∧
        exec (.getpix x y) t = .next { t with res := !v })) ∧
    (¬ onSurface s.cfg s.rot x y →
      (∀ color, exec (.setpix x y color) s = .next { s with res := false }) ∧
      exec (.getpix x y) s = .next { s with res := false })

/-- R54: SETPIX, HRUN and VRUN never write a padding bit; CLEAR writes them 0. -/
def Obligations.PaddingBitsOnlyCleared : Prop :=
  ∀ (s t : State) (i : Instr), s.fb.wf = true → exec i s = .next t →
    ∀ page bx bit, bx < logicalWidth s.cfg → bit < 8 → logicalHeight s.cfg ≤ 8 * page + bit →
      (paints i = true →
        fbBit t.fb (page * logicalWidth s.cfg + bx) bit =
          fbBit s.fb (page * logicalWidth s.cfg + bx) bit) ∧
      (i = .clear → fbBit t.fb (page * logicalWidth s.cfg + bx) bit = false)

/-! ### Unit U2: the zoom expander -/

/-- R131, R132: each input bit of the tables is replicated into 2, or 4, adjacent output bits; and the
tables printed there. All entries but one are the spec's own computation. -/
def Obligations.TablesReplicateBits : Prop :=
  (∀ (n : BitVec 4) (j : Nat), j < 8 → (lut2 n).getLsbD j = n.getLsbD (j / 2)) ∧
  (∀ (n : BitVec 2) (j : Nat), j < 8 → (lut4 n).getLsbD j = n.getLsbD (j / 4)) ∧
  (List.range 16).map (fun n => lut2 (.ofNat 4 n)) =
    [0x00, 0x03, 0x0C, 0x0F, 0x30, 0x33, 0x3C, 0x3F, 0xC0, 0xC3, 0xCC, 0xCF, 0xF0, 0xF3, 0xFC, 0xFF] ∧
  (List.range 4).map (fun n => lut4 (.ofNat 2 n)) = [0x00, 0x0F, 0xF0, 0xFF]

/-- R133's one formula for every zoom, R134's sequence, and R141's remark that expansion commutes with
complement. -/
def Obligations.ExpandReplicatesRows : Prop :=
  ∀ (z k : Nat) (v : Byte), legalZoom z → k < z →
    (∀ j, j < 8 → (expand z k v).getLsbD j = v.getLsbD ((8 * k + j) / z)) ∧
    (expandSeq z v).length = z ∧ (expandSeq z v)[k]? = some (expand z k v) ∧
    expand z k (~~~v) = ~~~(expand z k v)

/-- R137: reading only the rows at multiples of the zoom gives the byte back. -/
def Obligations.SamplingRoundTrip : Prop :=
  ∀ (z : Nat) (b : Byte) (column : Nat → Bool), legalZoom z →
    (∀ k j, k < z → j < 8 → column (8 * k + j) = (expand z k b).getLsbD j) →
    ∀ r, r < 8 → column (r * z) = b.getLsbD r

/-- R136: bit j of `PhysByte(P, X)` is the logical pixel at column `X div ZOOM`, row
`(8*P + j) div ZOOM`. -/
def Obligations.PhysByteShowsTheZoomedPixel : Prop :=
  ∀ (c : Config) (m : Memory) (p x j : Nat), validCfg c → j < 8 →
    (physByte c m p x).getLsbD j =
      bufferPixel c m (x / c.zoom.toNat) ((8 * p + j) / c.zoom.toNat)

/-- R140: BLIT, its window, its source bytes, its empty cases; FB, INVERT and everything but TX and RES
stay. -/
def Obligations.BlitSendsTheExpandedBitmap : Prop :=
  ∀ (s : State) (px py bw bh : Nat) (mirror invert : Bool), Admits s →
    ∃ t, exec (.blit px py bw bh mirror invert) s = .next t ∧
      t = { s with tx := t.tx, res := false } ∧
      ((bw = 0 ∨ bh = 0 ∨ s.cfg.physW.toNat ≤ px ∨ physPages s.cfg ≤ py / 8) → t.tx = s.tx) ∧
      (bw ≠ 0 → bh ≠ 0 → px < s.cfg.physW.toNat → py / 8 < physPages s.cfg → 0 < s.cfg.zoom.toNat →
        t.tx = s.tx ++ stream s.cfg s.variant
          ⟨py / 8, min (py / 8 + (bh + 7) / 8 * s.cfg.zoom.toNat) (physPages s.cfg) - 1,
            px, min (px + bw * s.cfg.zoom.toNat) s.cfg.physW.toNat - 1⟩
          (fun p x =>
            let column := (x - px) / s.cfg.zoom.toNat
            let source := if mirror then bw - 1 - column else column
            let v := readBitmap s ((p - py / 8) / s.cfg.zoom.toNat * bw + source)
            expand s.cfg.zoom.toNat ((p - py / 8) % s.cfg.zoom.toNat) (if invert then ~~~v else v)))

/-- R140's corner case and R139's size: BLIT looks at no bitmap byte at or beyond `SP * bw`. -/
def Obligations.BlitReadsOnlyItsBitmap : Prop :=
  ∀ (s s' t : State) (px py bw bh : Nat) (mirror invert : Bool), validCfg s.cfg → Admits s' →
    s'.cfg = s.cfg → s'.variant = s.variant →
    (∀ i, i < (bh + 7) / 8 * bw → readBitmap s' i = readBitmap s i) →
    exec (.blit px py bw bh mirror invert) s = .next t →
    ∃ t' added, exec (.blit px py bw bh mirror invert) s' = .next t' ∧
      t.tx = s.tx ++ added ∧ t'.tx = s'.tx ++ added

/-- R141, an inference of the spec from R140: of two draws at the same place with the same bitmap and
mirror flag and opposite invert flags, the data bytes are bytewise complements and the window commands
are identical. -/
def Obligations.OppositeBlitsAreComplements : Prop :=
  ∀ (s s' : State) (px py bw bh : Nat) (mirror : Bool), validCfg s.cfg → Admits s → Admits s' →
    s'.cfg = s.cfg → s'.variant = s.variant → (∀ i, readBitmap s' i = readBitmap s i) →
    ∃ t t' added added', exec (.blit px py bw bh mirror false) s = .next t ∧
      exec (.blit px py bw bh mirror true) s' = .next t' ∧
      t.tx = s.tx ++ added ∧ t'.tx = s'.tx ++ added' ∧
      dataBytes added' = (dataBytes added).map (~~~ ·) ∧
      added'.map TxByte.isData = added.map TxByte.isData ∧
      commandBytes added' = commandBytes added

/-! ### Unit U3: transfers -/

/-- R162, R163: a transfer appends one `Stream` to TX (nothing for an empty region), answers RES = 0 and
changes nothing else. -/
def Obligations.TransfersSendOneStream : Prop :=
  ∀ s : State, Admits s →
    exec .xferfull s = .next { s with
      tx := s.tx ++ stream s.cfg s.variant ⟨0, physPages s.cfg - 1, 0, s.cfg.physW.toNat - 1⟩
        (physByte s.cfg s.fb)
      res := false } ∧
    ∀ x y w h : Int,
      (region s.cfg x y w h = none → exec (.xferrgn x y w h) s = .next { s with res := false }) ∧
      ∀ win, region s.cfg x y w h = some win →
        exec (.xferrgn x y w h) s = .next { s with
          tx := s.tx ++ stream s.cfg s.variant win (physByte s.cfg s.fb)
          res := false }

/-- R162: XFERFULL equals `XFERRGN 0, 0, PHYS_W, PHYS_H`. -/
def Obligations.XferfullIsTheWholeRegion : Prop :=
  ∀ s : State, validCfg s.cfg →
    exec .xferfull s = exec (.xferrgn 0 0 s.cfg.physW.toNat s.cfg.physH.toNat) s

/-- R164: a page is in the window exactly when it holds a row of the clipped rectangle, a column exactly
when it is in the clipped rectangle; the region is empty exactly when the rectangle has no pixel on the
panel. That the result is a window of the panel is an inference of the spec ("0 <= P0 <= P1 <= NPP-1 and
0 <= X0 <= X1 <= PHYS_W-1 for every non-empty result", derived from the clipping). -/
def Obligations.RegionIsTheClippedRectangle : Prop :=
  ∀ (c : Config) (x y w h : Int),
    (region c x y w h = none ↔
      ∀ col row : Nat, col < c.physW.toNat → row < c.physH.toNat →
        ¬ (x ≤ col ∧ col < x + w ∧ y ≤ row ∧ row < y + h)) ∧
    ∀ win, region c x y w h = some win →
      win.p0 ≤ win.p1 ∧ win.p1 ≤ physPages c - 1 ∧ win.x0 ≤ win.x1 ∧ win.x1 ≤ c.physW.toNat - 1 ∧
      (∀ p : Nat, (win.p0 ≤ p ∧ p ≤ win.p1) ↔
        ∃ row : Nat, row / 8 = p ∧ row < c.physH.toNat ∧ y ≤ row ∧ (row : Int) < y + h) ∧
      (∀ col : Nat, (win.x0 ≤ col ∧ col ≤ win.x1) ↔
        col < c.physW.toNat ∧ x ≤ col ∧ (col : Int) < x + w)

/-- R165, an inference of the spec: every page and column of a window command fits its byte; an SH1106
column that passes 255 gives the command bytes of its low 8 bits. -/
def Obligations.WindowParametersFit : Prop :=
  ∀ (c : Config) (win : Window),
    (win = fullWindow c ∨ (∃ x y w h, region c x y w h = some win) ∨
      ∃ px py bw bh, blitWindow c px py bw bh = some win) →
    win.p0 ≤ 31 ∧ win.p1 ≤ 31 ∧ win.x0 ≤ 254 ∧ win.x1 ≤ 254 ∧
    (∀ x0, lowColumn c x0 = c.cmdSetLowColumn ||| ((BitVec.ofNat 8 (x0 + c.shColOffset)) &&& 0x0F)) ∧
    ∀ x0, highColumn c x0 = c.cmdSetHighColumn ||| ((BitVec.ofNat 8 (x0 + c.shColOffset)) >>> 4)

/-- R166, R167, R168: the window commands and the page prefix of each variant. The per-page form and
which column bits go into which command are the spec's own general knowledge (R167, R168). -/
def Obligations.WindowCommandsByVariant : Prop :=
  ∀ (c : Config) (p0 p1 x0 x1 p : Nat),
    let lo : Byte := c.cmdSetLowColumn ||| ((BitVec.ofNat 8 (x0 + c.shColOffset)) &&& 0x0F)
    let hi : Byte := c.cmdSetHighColumn ||| ((BitVec.ofNat 8 (x0 + c.shColOffset)) >>> 4)
    windowCommands c .ssd1306 ⟨p0, p1, x0, x1⟩ = asCommands
      [c.cmdPageAddr, .ofNat 8 p0, .ofNat 8 p1, c.cmdColumnAddr, .ofNat 8 x0, .ofNat 8 x1] ∧
    pagePrefix c .ssd1306 p x0 = [] ∧
    (c.shPerPage = false →
      windowCommands c .sh1106 ⟨p0, p1, x0, x1⟩ = asCommands
        [c.cmdPageAddr, .ofNat 8 p0, .ofNat 8 p1, lo, hi] ∧
      pagePrefix c .sh1106 p x0 = []) ∧
    (c.shPerPage = true →
      windowCommands c .sh1106 ⟨p0, p1, x0, x1⟩ = [] ∧
      pagePrefix c .sh1106 p x0 = asCommands
        [c.cmdSetPage ||| ((BitVec.ofNat 8 p) &&& 0x0F), lo, hi])

/-- R170: where each tagged byte of a `Stream` stands: the window first, then page by page, top to
bottom, its prefix and its data bytes left to right, and nothing else. -/
def Obligations.StreamIsTheRaster : Prop :=
  ∀ (c : Config) (variant : Variant) (win : Window) (f : Nat → Nat → Byte),
    win.p0 ≤ win.p1 → win.x0 ≤ win.x1 →
    let head := (windowCommands c variant win).length
    let lead := (pagePrefix c variant win.p0 win.x0).length
    let width := win.x1 - win.x0 + 1
    (stream c variant win f).length = head + (win.p1 - win.p0 + 1) * (lead + width) ∧
    (stream c variant win f).take head = windowCommands c variant win ∧
    ∀ p, win.p0 ≤ p → p ≤ win.p1 →
      (∀ j, j < lead →
        (stream c variant win f)[head + (p - win.p0) * (lead + width) + j]? =
          (pagePrefix c variant p win.x0)[j]?) ∧
      ∀ x, win.x0 ≤ x → x ≤ win.x1 →
        (stream c variant win f)[head + (p - win.p0) * (lead + width) + lead + (x - win.x0)]? =
          some (.data (f p x))

/-- The counts that follow from the window commands, the page prefixes and the raster (R162, R166, R167,
R170): XFERFULL sends `NPP * PHYS_W` data bytes, and 6 command bytes (SSD1306) or 5 (SH1106), which R275
gives as information derived by the spec; or 3 for each page (SH1106 per page), from R168, which is general
knowledge of the spec, as is the shape of the window commands (notes/assumptions/16.md, PRESUMED). -/
def Obligations.XferfullByteCounts : Prop :=
  ∀ s : State, validCfg s.cfg → Admits s →
    ∃ t added, exec .xferfull s = .next t ∧ t.tx = s.tx ++ added ∧
      (dataBytes added).length = physPages s.cfg * s.cfg.physW.toNat ∧
      (commandBytes added).length =
        (match s.variant with
        | .ssd1306 => 6
        | .sh1106 => if s.cfg.shPerPage then 3 * physPages s.cfg else 5)

/-- R172: at 128 by 64, zoom 2, the framebuffer is 64 by 32 in 256 bytes, and after CLEAR and
SETPIX (0,0) ON the first two data bytes of XFERFULL are 0x03. -/
def Obligations.FirstPixelIsATwoByTwoBlock : Prop :=
  ∀ s : State, Admits s → s.rot = .deg0 → s.cfg.physW = 128 → s.cfg.physH = 64 → s.cfg.zoom = 2 →
    logicalWidth s.cfg = 64 ∧ logicalHeight s.cfg = 32 ∧ fbSize s.cfg = 256 ∧
    ∃ t1 t2 t3 added later, exec .clear s = .next t1 ∧ exec (.setpix 0 0 .on) t1 = .next t2 ∧
      readByte t2.fb 0 = 0x01 ∧ exec .xferfull t2 = .next t3 ∧ t3.tx = t2.tx ++ added ∧
      dataBytes added = lut2 0x1 :: lut2 0x1 :: later ∧ lut2 0x1 = 0b00000011

/-! ### Unit U3: display control -/

/-- R201: SETINV sends the one command its operand chooses and records it. -/
def Obligations.SetinvSendsItsChoice : Prop :=
  ∀ (s : State) (enable : Bool), Admits s →
    exec (.setinv enable) s = .next { s with
      tx := s.tx ++ [.command (if enable then s.cfg.cmdInvertDisplay else s.cfg.cmdNormalDisplay)]
      invert := enable
      res := false }

/-- R202: SETDIM sends the contrast command and the dim or the saved normal contrast. -/
def Obligations.SetdimSendsTheContrast : Prop :=
  ∀ (s : State) (enable : Bool), Admits s →
    exec (.setdim enable) s = .next { s with
      tx := s.tx ++ [.command s.cfg.cmdSetContrast,
        .command (if enable then s.cfg.dimContrast else s.normcon)]
      contrast := if enable then s.cfg.dimContrast else s.normcon
      dim := enable
      res := false }

/-- R206 to R209: the four scroll starts send their sequence, pages unchecked, and set SCROLLING. R205:
the sequence is not empty. -/
def Obligations.ScrollStartsSendTheirSequence : Prop :=
  ∀ (s : State) (start stop : Byte), Admits s →
    exec (.scrr start stop) s = .next { s with
      tx := s.tx ++ asCommands (scrollSeq s.cfg .right start stop), scrolling := true, res := false } ∧
    exec (.scrl start stop) s = .next { s with
      tx := s.tx ++ asCommands (scrollSeq s.cfg .left start stop), scrolling := true, res := false } ∧
    exec (.scrdr start stop) s = .next { s with
      tx := s.tx ++ asCommands (scrollSeq s.cfg .diagRight start stop)
      scrolling := true
      res := false } ∧
    exec (.scrdl start stop) s = .next { s with
      tx := s.tx ++ asCommands (scrollSeq s.cfg .diagLeft start stop)
      scrolling := true
      res := false } ∧
    ∀ kind, scrollSeq s.cfg kind start stop ≠ []

/-- R210: SCRSTOP sends its one byte whatever SCROLLING holds, and clears it. -/
def Obligations.ScrstopAlwaysSends : Prop :=
  ∀ s : State, Admits s →
    exec .scrstop s = .next { s with
      tx := s.tx ++ [.command s.cfg.cmdDeactivateScroll], scrolling := false, res := false }

/-! ### Whole-machine rules -/

/-- R23: PHASE becomes Ready only by a BEGIN that succeeds, and nothing but a reset makes it
Uninitialized again. -/
def Obligations.PhaseMovesOnlyByBeginAndReset : Prop :=
  (∀ c n, (State.resetWith c n).phase = .uninitialized) ∧
  ∀ s t : State, step s = .next t →
    (s.phase = .uninitialized → t.phase = .ready →
      ∃ vcc variant, nextIs s (.begin vcc variant) ∧ t.res = true) ∧
    (∀ vcc variant, nextIs s (.begin vcc variant) → t.res = true → t.phase = .ready) ∧
    (s.phase = .ready → t.phase = .uninitialized → nextIsReset s)

/-- R24: FAILED is 0 after reset, set only by a failing BEGIN, cleared only by a reset, and while it is
1 every operation is refused. -/
def Obligations.FailedIsSticky : Prop :=
  (∀ c n, (State.resetWith c n).failed = false) ∧
  (∀ s t : State, step s = .next t → s.failed = false → t.failed = true →
    ∃ vcc variant, nextIs s (.begin vcc variant) ∧ t.res = false) ∧
  (∀ s t : State, step s = .next t → s.failed = true → t.failed = false → nextIsReset s) ∧
  ∀ (s : State) (i : Instr), s.failed = true → exec i s = .refused .afterFailedBegin

/-- The "written by" column of R20, and R50 (c) for TX: an operation that changes a piece of state is
one the table lists. No operation writes the configuration, the bitmap or the host's events. -/
def Obligations.WritersAreTheListed : Prop :=
  ∀ (i : Instr) (s t : State), exec i s = .next t →
    t.cfg = s.cfg ∧ t.bmp = s.bmp ∧ t.host = s.host ∧ t.epoch = s.epoch ∧
    (isBegin i = false → t.phase = s.phase ∧ t.failed = s.failed ∧ t.variant = s.variant ∧
      t.vcc = s.vcc ∧ t.normcon = s.normcon) ∧
    (writesScrolling i = false → t.scrolling = s.scrolling) ∧
    (writesRot i = false → t.rot = s.rot) ∧
    (writesContrast i = false → t.contrast = s.contrast ∧ t.dim = s.dim) ∧
    (writesInvert i = false → t.invert = s.invert) ∧
    (writesFb i = false → t.fb = s.fb) ∧
    (sends i = false → t.tx = s.tx)

/-- The "read by" column of R20: an operation the table does not list for ROT, VARIANT, NORMCON or FB
does the same whatever that piece of state holds. -/
def Obligations.ReadersAreTheListed : Prop :=
  ∀ (i : Instr) (s t : State), exec i s = .next t →
    (readsRot i = false → ∀ rot, ∃ t', exec i { s with rot := rot } = .next t' ∧
      { t' with rot := t.rot } = t) ∧
    (readsVariant i = false → ∀ variant, ∃ t', exec i { s with variant := variant } = .next t' ∧
      { t' with variant := t.variant } = t) ∧
    (readsNormcon i = false → ∀ v, ∃ t', exec i { s with normcon := v } = .next t' ∧
      { t' with normcon := t.normcon } = t) ∧
    (readsFb i = false → ∀ m, ∃ t', exec i { s with fb := m } = .next t' ∧
      { t' with fb := t.fb } = t)

/-- R25, R28, R30, R31, R32: no rule reads SCROLLING, VCC, CONTRAST, INVERT or DIM: every operation does
the same whatever they hold. -/
def Obligations.BeliefsAreNotRead : Prop :=
  ∀ (i : Instr) (s t : State) (scrolling invert dim : Bool) (vcc : Vcc) (contrast : Byte),
    exec i s = .next t →
    ∃ t', exec i { s with scrolling := scrolling, vcc := vcc, contrast := contrast,
                          invert := invert, dim := dim } = .next t' ∧
      { t' with scrolling := t.scrolling, vcc := t.vcc, contrast := t.contrast,
                invert := t.invert, dim := t.dim } = t

/-- R169: the data bytes of a transfer do not depend on the variant, whatever SH_PER_PAGE is. -/
def Obligations.DataBytesIgnoreTheVariant : Prop :=
  ∀ (i : Instr) (s t : State) (variant : Variant), readsVariant i = true → exec i s = .next t →
    ∃ t' added added', exec i { s with variant := variant } = .next t' ∧
      t.tx = s.tx ++ added ∧ t'.tx = s.tx ++ added' ∧ dataBytes added' = dataBytes added

/-- R35: TX is append-only since reset, and no rule reads it. -/
def Obligations.TxIsAppendOnly : Prop :=
  (∀ s t : State, step s = .next t → (nextIsReset s ∧ t.tx = []) ∨ ∃ added, t.tx = s.tx ++ added) ∧
  ∀ (i : Instr) (s t : State), exec i s = .next t →
    ∃ added, t.tx = s.tx ++ added ∧
      ∀ l, exec i { s with tx := l } = .next { t with tx := l ++ added }

/-- R36: RES is the pixel for GETPIX, the success indicator for BEGIN, 0 for every other operation. -/
def Obligations.ResIsMeaningfulForTwo : Prop :=
  ∀ (i : Instr) (s t : State), exec i s = .next t →
    (∀ vcc variant, i = .begin vcc variant → (t.res = true ↔ t.phase = .ready)) ∧
    (∀ x y p, i = .getpix x y → pack s.cfg s.rot x y = some p →
      t.res = fbBit s.fb p.idx p.bit) ∧
    (isBegin i = false → (∀ x y, i ≠ .getpix x y) → t.res = false)

/-- R59, R60: under I2C every admitted wire trace gives TX back through its prefixes 0x00 and 0x40, and
every TX has one. -/
def Obligations.I2cPrefixesDetermineTx : Prop :=
  ∀ (c : Config) (tx : List TxByte), c.transport = .i2c →
    (∃ wire, wireAdmits c tx wire) ∧
    ∀ wire, wireAdmits c tx wire → wire.flatMap unprefix = tx
end

