-- ==== Sys2Proof/Laws/Decode.lean ====
section
/-! SUPPORT. The fields of a packed word, and packing as a bijection: what proofs about `decode` and
`encode` cite. -/

namespace Sys2Proof

@[simp] theorem opField_packWord (op fl : BitVec 8) (a b c d : BitVec 16) :
    opField (packWord op fl a b c d) = op := by
  ext i hi; simp [opField, packWord]; grind

@[simp] theorem flField_packWord (op fl : BitVec 8) (a b c d : BitVec 16) :
    flField (packWord op fl a b c d) = fl := by
  ext i hi; simp [flField, packWord]; grind

@[simp] theorem aField_packWord (op fl : BitVec 8) (a b c d : BitVec 16) :
    aField (packWord op fl a b c d) = a := by
  ext i hi; simp [aField, packWord]; grind

@[simp] theorem bField_packWord (op fl : BitVec 8) (a b c d : BitVec 16) :
    bField (packWord op fl a b c d) = b := by
  ext i hi; simp [bField, packWord]; grind

@[simp] theorem cField_packWord (op fl : BitVec 8) (a b c d : BitVec 16) :
    cField (packWord op fl a b c d) = c := by
  ext i hi; simp [cField, packWord]; grind

@[simp] theorem dField_packWord (op fl : BitVec 8) (a b c d : BitVec 16) :
    dField (packWord op fl a b c d) = d := by
  ext i hi; simp [dField, packWord]; grind

/-- A word is the packing of its fields. -/
theorem packWord_fields (w : CmdWord) :
    packWord (opField w) (flField w) (aField w) (bField w) (cField w) (dField w) = w := by
  ext i hi
  simp [packWord, opField, flField, aField, bField, cField, dField]
  grind

/-- Packed words are equal where their fields are. -/
theorem packWord_inj {op fl op' fl' : BitVec 8} {a b c d a' b' c' d' : BitVec 16} :
    packWord op fl a b c d = packWord op' fl' a' b' c' d' ↔
      op = op' ∧ fl = fl' ∧ a = a' ∧ b = b' ∧ c = c' ∧ d = d' := by
  constructor
  · intro h
    have ho := congrArg opField h
    have hf := congrArg flField h
    have ha := congrArg aField h
    have hb := congrArg bField h
    have hc := congrArg cField h
    have hd := congrArg dField h
    simp at ho hf ha hb hc hd
    exact ⟨ho, hf, ha, hb, hc, hd⟩
  · rintro ⟨rfl, rfl, rfl, rfl, rfl, rfl⟩; rfl

/-- Masking works field by field. -/
theorem packWord_and (op fl op' fl' : BitVec 8) (a b c d a' b' c' d' : BitVec 16) :
    packWord op fl a b c d &&& packWord op' fl' a' b' c' d' =
      packWord (op &&& op') (fl &&& fl') (a &&& a') (b &&& b') (c &&& c') (d &&& d') := by
  ext i hi
  simp [packWord]
  grind

end Sys2Proof
end

