-- ==== Sys2Proof/Laws/Memory.lean ====
section
/-! SUPPORT. The laws of the framebuffer as a memory: read after write, the canonical form, its
extensionality, the bound on indices. -/

namespace Sys2Proof.Machine

@[simp] theorem readByte_zeroMemory (i : Nat) : readByte zeroMemory i = 0 := rfl

theorem readByte_of_lt {m : Memory} {lo i : Nat} (h : canonicalFrom lo m = true) (hi : i < lo) :
    readByte m i = unlistedByte := by
  induction m generalizing lo with
  | nil => rfl
  | cons cell rest ih =>
    obtain ⟨b, v⟩ := cell
    simp only [canonicalFrom, Bool.and_eq_true, decide_eq_true_eq] at h
    simp only [readByte]
    rw [if_neg (by omega)]
    exact ih h.2 (by omega)

theorem canonicalFrom_mono {m : Memory} {lo lo' : Nat} (h : canonicalFrom lo m = true)
    (hl : lo' ≤ lo) : canonicalFrom lo' m = true := by
  cases m with
  | nil => rfl
  | cons cell rest =>
    obtain ⟨b, v⟩ := cell
    simp only [canonicalFrom, Bool.and_eq_true, decide_eq_true_eq] at h ⊢
    exact ⟨⟨by omega, h.1.2⟩, h.2⟩

/-- Read after write, for every pair of indices. -/
theorem readByte_writeByte {m : Memory} {lo : Nat} (h : canonicalFrom lo m = true) (i j : Nat)
    (v : Byte) : readByte (writeByte m i v) j = if j = i then v else readByte m j := by
  induction m generalizing lo with
  | nil =>
    simp only [writeByte]
    split
    · rename_i hv; subst hv; simp [readByte]
    · simp only [readByte, eq_comm]
  | cons cell rest ih =>
    obtain ⟨b, u⟩ := cell
    simp only [canonicalFrom, Bool.and_eq_true, decide_eq_true_eq] at h
    have low : ∀ k, k < b + 1 → readByte rest k = unlistedByte := fun k hk => readByte_of_lt h.2 hk
    simp only [writeByte]
    split
    · rename_i hib
      split
      · rename_i hv
        by_cases hj : j = i
        · subst hj; simp [readByte, hv, low j (by omega)]; omega
        · simp [hj]
      · by_cases hj : j = i
        · subst hj; simp [readByte]
        · rw [if_neg hj]; simp [readByte, Ne.symm hj]
    · split
      · rename_i hib
        subst hib
        split
        · rename_i hv
          by_cases hj : j = i
          · subst hj; simp [hv, low j (by omega)]
          · simp [hj, readByte, Ne.symm hj]
        · by_cases hj : j = i
          · subst hj; simp [readByte]
          · simp [hj, readByte, Ne.symm hj]
      · simp only [readByte]
        rw [ih h.2]
        by_cases hj : j = i
        · subst hj; simp; omega
        · simp [hj]

theorem canonicalFrom_writeByte {m : Memory} {lo i : Nat} (h : canonicalFrom lo m = true)
    (hi : lo ≤ i) (v : Byte) : canonicalFrom lo (writeByte m i v) = true := by
  induction m generalizing lo with
  | nil =>
    simp only [writeByte]
    split <;> simp_all [canonicalFrom]
  | cons cell rest ih =>
    obtain ⟨b, u⟩ := cell
    simp only [canonicalFrom, Bool.and_eq_true, decide_eq_true_eq] at h
    simp only [writeByte]
    split
    · split
      · simp [canonicalFrom, h]
      · rename_i h1 h2
        simp only [canonicalFrom, Bool.and_eq_true, decide_eq_true_eq]
        exact ⟨⟨hi, h2⟩, ⟨by omega, h.1.2⟩, h.2⟩
    · split
      · rename_i h1 h2
        subst h2
        split
        · exact canonicalFrom_mono h.2 (by omega)
        · rename_i h3
          simp only [canonicalFrom, Bool.and_eq_true, decide_eq_true_eq]
          exact ⟨⟨hi, h3⟩, h.2⟩
      · simp only [canonicalFrom, Bool.and_eq_true, decide_eq_true_eq]
        exact ⟨h.1, ih h.2 (by omega)⟩

/-- A write keeps the canonical form. -/
theorem writeByte_wf {m : Memory} (h : m.wf = true) (i : Nat) (v : Byte) :
    Memory.wf (writeByte m i v) = true := canonicalFrom_writeByte h (Nat.zero_le i) v

theorem readByte_writeByte_wf {m : Memory} (h : m.wf = true) (i j : Nat) (v : Byte) :
    readByte (writeByte m i v) j = if j = i then v else readByte m j := readByte_writeByte h i j v

/-- Memories in canonical form that read the same are the same data. -/
theorem canonical_ext {m m' : Memory} {lo : Nat} (h : canonicalFrom lo m = true)
    (h' : canonicalFrom lo m' = true) (hr : ∀ i, readByte m i = readByte m' i) : m = m' := by
  induction m generalizing lo m' with
  | nil =>
    cases m' with
    | nil => rfl
    | cons cell rest =>
      obtain ⟨b, v⟩ := cell
      simp only [canonicalFrom, Bool.and_eq_true, decide_eq_true_eq] at h'
      have := hr b
      simp [readByte] at this
      exact absurd this.symm h'.1.2
  | cons cell rest ih =>
    obtain ⟨b, v⟩ := cell
    simp only [canonicalFrom, Bool.and_eq_true, decide_eq_true_eq] at h
    cases m' with
    | nil =>
      have := hr b
      simp [readByte] at this
      exact absurd this h.1.2
    | cons cell' rest' =>
      obtain ⟨b', v'⟩ := cell'
      have h'' := h'
      simp only [canonicalFrom, Bool.and_eq_true, decide_eq_true_eq] at h'
      have hb := hr b
      have hb' := hr b'
      have eqb : b = b' := by
        rcases Nat.lt_trichotomy b b' with hlt | heq | hgt
        · rw [readByte, if_pos rfl, readByte, if_neg (by omega),
            readByte_of_lt h'.2 (by omega)] at hb
          exact absurd hb h.1.2
        · exact heq
        · rw [readByte, if_neg (by omega), readByte_of_lt h.2 (by omega), readByte,
            if_pos rfl] at hb'
          exact absurd hb'.symm h'.1.2
      subst eqb
      have hv : v = v' := by simpa [readByte] using hb
      subst hv
      congr 1
      refine ih h.2 h'.2 fun i => ?_
      by_cases hi : i < b + 1
      · rw [readByte_of_lt h.2 hi, readByte_of_lt h'.2 hi]
      · have := hr i
        simpa [readByte, show b ≠ i by omega] using this

theorem wf_ext {m m' : Memory} (h : m.wf = true) (h' : m'.wf = true)
    (hr : ∀ i, readByte m i = readByte m' i) : m = m' := canonical_ext h h' hr

theorem below_writeByte {m : Memory} {n i : Nat} (h : Memory.below n m = true) (hi : i < n)
    (v : Byte) : Memory.below n (writeByte m i v) = true := by
  simp only [Memory.below, List.all_eq_true, decide_eq_true_eq] at h ⊢
  induction m with
  | nil =>
    intro cell hc
    simp only [writeByte] at hc
    split at hc <;> simp_all
  | cons head rest ih =>
    obtain ⟨b, u⟩ := head
    have hrest : ∀ x ∈ rest, x.1 < n := fun x hx => h x (List.mem_cons_of_mem _ hx)
    have hb : b < n := h (b, u) List.mem_cons_self
    intro cell hc
    simp only [writeByte] at hc
    split at hc
    · split at hc
      · exact h cell hc
      · rcases List.mem_cons.1 hc with rfl | hc
        · exact hi
        · exact h cell hc
    · split at hc
      · split at hc
        · exact hrest cell hc
        · rcases List.mem_cons.1 hc with rfl | hc
          · exact hi
          · exact hrest cell hc
      · rcases List.mem_cons.1 hc with rfl | hc
        · exact hb
        · exact ih hrest cell hc

/-- A byte at or beyond the bound reads as an unlisted one. -/
theorem readByte_of_below {m : Memory} {n i : Nat} (h : Memory.below n m = true) (hi : n ≤ i) :
    readByte m i = unlistedByte := by
  induction m with
  | nil => rfl
  | cons cell rest ih =>
    obtain ⟨b, v⟩ := cell
    simp only [Memory.below, List.all_cons, Bool.and_eq_true, decide_eq_true_eq] at h
    rw [readByte, if_neg (by omega)]
    exact ih h.2

/-! ### The image of a reset -/

theorem canonicalFrom_imageFrom (f : Nat → Byte) (start count : Nat) :
    canonicalFrom start (imageFrom f start count) = true := by
  induction count generalizing start with
  | zero => rfl
  | succ n ih =>
    simp only [imageFrom]
    split
    · exact canonicalFrom_mono (ih (start + 1)) (by omega)
    · rename_i h
      simp [canonicalFrom, h, ih]

theorem imageFrom_wf (f : Nat → Byte) (count : Nat) : Memory.wf (imageFrom f 0 count) = true :=
  canonicalFrom_imageFrom f 0 count

theorem readByte_imageFrom (f : Nat → Byte) (start count i : Nat) :
    readByte (imageFrom f start count) i =
      if start ≤ i ∧ i < start + count then f i else unlistedByte := by
  induction count generalizing start with
  | zero => rw [if_neg (by omega)]; rfl
  | succ n ih =>
    simp only [imageFrom]
    split
    · rename_i h
      rw [ih]
      by_cases hs : i = start
      · subst hs; simp [h]
      · congr 1
        simp only [eq_iff_iff]
        omega
    · simp only [readByte]
      split
      · rename_i h; subst h; simp
      · rw [ih]
        congr 1
        simp only [eq_iff_iff]
        omega

theorem below_imageFrom (f : Nat → Byte) (start count : Nat) :
    Memory.below (start + count) (imageFrom f start count) = true := by
  induction count generalizing start with
  | zero => rfl
  | succ n ih =>
    have h := ih (start + 1)
    rw [show start + 1 + n = start + (n + 1) by omega] at h
    simp only [imageFrom]
    split
    · exact h
    · simp only [Memory.below, List.all_cons, Bool.and_eq_true, decide_eq_true_eq] at h ⊢
      exact ⟨by omega, h⟩

/-! ### Painting -/

theorem applyAt_wf {m : Memory} (h : m.wf = true) (color : Color) (i : Nat) (mask : Byte) :
    Memory.wf (applyAt color m i mask) = true := writeByte_wf h i _

theorem readByte_applyAt {m : Memory} (h : m.wf = true) (color : Color) (i j : Nat) (mask : Byte) :
    readByte (applyAt color m i mask) j =
      if j = i then applyColor color (readByte m j) mask else readByte m j := by
  rw [applyAt, readByte_writeByte_wf h]
  split
  · rename_i h; subst h; rfl
  · rfl

theorem paintPixel_wf {m : Memory} (h : m.wf = true) (c : Config) (rot : Rot) (color : Color)
    (x y : Int) : Memory.wf (paintPixel c rot color m x y) = true := by
  unfold paintPixel
  split
  · exact applyAt_wf h _ _ _
  · exact h

theorem foldl_wf {α : Type} (f : Memory → α → Memory)
    (hf : ∀ m a, Memory.wf m = true → Memory.wf (f m a) = true) (l : List α) {m : Memory}
    (h : m.wf = true) : Memory.wf (l.foldl f m) = true := by
  induction l generalizing m with
  | nil => exact h
  | cons a l ih => exact ih (hf m a h)

theorem paintRow_wf {m : Memory} (h : m.wf = true) (c : Config) (rot : Rot) (color : Color)
    (x y len : Int) : Memory.wf (paintRow c rot color m x y len) = true :=
  foldl_wf _ (fun _ _ hm => paintPixel_wf hm c rot color _ _) _ h

theorem paintColumn_wf {m : Memory} (h : m.wf = true) (c : Config) (rot : Rot) (color : Color)
    (x y len : Int) : Memory.wf (paintColumn c rot color m x y len) = true :=
  foldl_wf _ (fun _ _ hm => paintPixel_wf hm c rot color _ _) _ h

/-- Every valid `Pack` index is one of the FBSIZE bytes (R58, R102). -/
theorem pack_idx_lt {c : Config} {rot : Rot} {x y : Int} {p : PixelAddr}
    (h : pack c rot x y = some p) : p.idx < fbSize c ∧ p.bit < 8 := by
  simp only [pack] at h
  split at h
  · rename_i hb
    cases h
    obtain ⟨h1, h2, h3, h4⟩ := hb
    refine ⟨?_, Nat.mod_lt _ (by omega)⟩
    simp only [byteIndex, fbSize, logicalPages, ceilDiv8]
    have hx : (remap c rot x y).1.toNat < logicalWidth c := by omega
    have hy : (remap c rot x y).2.toNat / 8 + 1 ≤ (logicalHeight c + 7) / 8 := by omega
    calc (remap c rot x y).2.toNat / 8 * logicalWidth c + (remap c rot x y).1.toNat
        < (remap c rot x y).2.toNat / 8 * logicalWidth c + logicalWidth c := by omega
      _ = ((remap c rot x y).2.toNat / 8 + 1) * logicalWidth c := by ring
      _ ≤ _ := Nat.mul_le_mul_right _ hy
  · cases h

theorem paintPixel_below {m : Memory} {c : Config} (h : Memory.below (fbSize c) m = true) (rot : Rot)
    (color : Color) (x y : Int) :
    Memory.below (fbSize c) (paintPixel c rot color m x y) = true := by
  unfold paintPixel
  split
  · rename_i p hp
    exact below_writeByte h (pack_idx_lt hp).1 _
  · exact h

theorem foldl_below {α : Type} {n : Nat} (f : Memory → α → Memory)
    (hf : ∀ m a, Memory.below n m = true → Memory.below n (f m a) = true) (l : List α) {m : Memory}
    (h : Memory.below n m = true) : Memory.below n (l.foldl f m) = true := by
  induction l generalizing m with
  | nil => exact h
  | cons a l ih => exact ih (hf m a h)

theorem paintRow_below {m : Memory} {c : Config} (h : Memory.below (fbSize c) m = true) (rot : Rot)
    (color : Color) (x y len : Int) :
    Memory.below (fbSize c) (paintRow c rot color m x y len) = true :=
  foldl_below _ (fun _ _ hm => paintPixel_below hm rot color _ _) _ h

theorem paintColumn_below {m : Memory} {c : Config} (h : Memory.below (fbSize c) m = true) (rot : Rot)
    (color : Color) (x y len : Int) :
    Memory.below (fbSize c) (paintColumn c rot color m x y len) = true :=
  foldl_below _ (fun _ _ hm => paintPixel_below hm rot color _ _) _ h

end Sys2Proof.Machine
end

