-- ==== Sys2Proof/Laws/State.lean ====
section
/-! SUPPORT. One lemma per field per update of Machine/Ops.lean, each true by rfl, so that no proof
unfolds a record update. -/

namespace Sys2Proof.Machine

/-! ### withRes -/

@[simp] theorem State.withRes_cfg (s : State) (r : Bool) :
    (s.withRes r).cfg = s.cfg := rfl
@[simp] theorem State.withRes_phase (s : State) (r : Bool) :
    (s.withRes r).phase = s.phase := rfl
@[simp] theorem State.withRes_failed (s : State) (r : Bool) :
    (s.withRes r).failed = s.failed := rfl
@[simp] theorem State.withRes_scrolling (s : State) (r : Bool) :
    (s.withRes r).scrolling = s.scrolling := rfl
@[simp] theorem State.withRes_rot (s : State) (r : Bool) :
    (s.withRes r).rot = s.rot := rfl
@[simp] theorem State.withRes_variant (s : State) (r : Bool) :
    (s.withRes r).variant = s.variant := rfl
@[simp] theorem State.withRes_vcc (s : State) (r : Bool) :
    (s.withRes r).vcc = s.vcc := rfl
@[simp] theorem State.withRes_normcon (s : State) (r : Bool) :
    (s.withRes r).normcon = s.normcon := rfl
@[simp] theorem State.withRes_contrast (s : State) (r : Bool) :
    (s.withRes r).contrast = s.contrast := rfl
@[simp] theorem State.withRes_invert (s : State) (r : Bool) :
    (s.withRes r).invert = s.invert := rfl
@[simp] theorem State.withRes_dim (s : State) (r : Bool) :
    (s.withRes r).dim = s.dim := rfl
@[simp] theorem State.withRes_fb (s : State) (r : Bool) :
    (s.withRes r).fb = s.fb := rfl
@[simp] theorem State.withRes_tx (s : State) (r : Bool) :
    (s.withRes r).tx = s.tx := rfl
@[simp] theorem State.withRes_res (s : State) (r : Bool) :
    (s.withRes r).res = r := rfl
@[simp] theorem State.withRes_bmp (s : State) (r : Bool) :
    (s.withRes r).bmp = s.bmp := rfl
@[simp] theorem State.withRes_host (s : State) (r : Bool) :
    (s.withRes r).host = s.host := rfl
@[simp] theorem State.withRes_epoch (s : State) (r : Bool) :
    (s.withRes r).epoch = s.epoch := rfl

/-! ### send -/

@[simp] theorem State.send_cfg (s : State) (l : List TxByte) :
    (s.send l).cfg = s.cfg := rfl
@[simp] theorem State.send_phase (s : State) (l : List TxByte) :
    (s.send l).phase = s.phase := rfl
@[simp] theorem State.send_failed (s : State) (l : List TxByte) :
    (s.send l).failed = s.failed := rfl
@[simp] theorem State.send_scrolling (s : State) (l : List TxByte) :
    (s.send l).scrolling = s.scrolling := rfl
@[simp] theorem State.send_rot (s : State) (l : List TxByte) :
    (s.send l).rot = s.rot := rfl
@[simp] theorem State.send_variant (s : State) (l : List TxByte) :
    (s.send l).variant = s.variant := rfl
@[simp] theorem State.send_vcc (s : State) (l : List TxByte) :
    (s.send l).vcc = s.vcc := rfl
@[simp] theorem State.send_normcon (s : State) (l : List TxByte) :
    (s.send l).normcon = s.normcon := rfl
@[simp] theorem State.send_contrast (s : State) (l : List TxByte) :
    (s.send l).contrast = s.contrast := rfl
@[simp] theorem State.send_invert (s : State) (l : List TxByte) :
    (s.send l).invert = s.invert := rfl
@[simp] theorem State.send_dim (s : State) (l : List TxByte) :
    (s.send l).dim = s.dim := rfl
@[simp] theorem State.send_fb (s : State) (l : List TxByte) :
    (s.send l).fb = s.fb := rfl
@[simp] theorem State.send_tx (s : State) (l : List TxByte) :
    (s.send l).tx = s.tx ++ l := rfl
@[simp] theorem State.send_res (s : State) (l : List TxByte) :
    (s.send l).res = s.res := rfl
@[simp] theorem State.send_bmp (s : State) (l : List TxByte) :
    (s.send l).bmp = s.bmp := rfl
@[simp] theorem State.send_host (s : State) (l : List TxByte) :
    (s.send l).host = s.host := rfl
@[simp] theorem State.send_epoch (s : State) (l : List TxByte) :
    (s.send l).epoch = s.epoch := rfl

/-! ### withFb -/

@[simp] theorem State.withFb_cfg (s : State) (m : Memory) :
    (s.withFb m).cfg = s.cfg := rfl
@[simp] theorem State.withFb_phase (s : State) (m : Memory) :
    (s.withFb m).phase = s.phase := rfl
@[simp] theorem State.withFb_failed (s : State) (m : Memory) :
    (s.withFb m).failed = s.failed := rfl
@[simp] theorem State.withFb_scrolling (s : State) (m : Memory) :
    (s.withFb m).scrolling = s.scrolling := rfl
@[simp] theorem State.withFb_rot (s : State) (m : Memory) :
    (s.withFb m).rot = s.rot := rfl
@[simp] theorem State.withFb_variant (s : State) (m : Memory) :
    (s.withFb m).variant = s.variant := rfl
@[simp] theorem State.withFb_vcc (s : State) (m : Memory) :
    (s.withFb m).vcc = s.vcc := rfl
@[simp] theorem State.withFb_normcon (s : State) (m : Memory) :
    (s.withFb m).normcon = s.normcon := rfl
@[simp] theorem State.withFb_contrast (s : State) (m : Memory) :
    (s.withFb m).contrast = s.contrast := rfl
@[simp] theorem State.withFb_invert (s : State) (m : Memory) :
    (s.withFb m).invert = s.invert := rfl
@[simp] theorem State.withFb_dim (s : State) (m : Memory) :
    (s.withFb m).dim = s.dim := rfl
@[simp] theorem State.withFb_fb (s : State) (m : Memory) :
    (s.withFb m).fb = m := rfl
@[simp] theorem State.withFb_tx (s : State) (m : Memory) :
    (s.withFb m).tx = s.tx := rfl
@[simp] theorem State.withFb_res (s : State) (m : Memory) :
    (s.withFb m).res = s.res := rfl
@[simp] theorem State.withFb_bmp (s : State) (m : Memory) :
    (s.withFb m).bmp = s.bmp := rfl
@[simp] theorem State.withFb_host (s : State) (m : Memory) :
    (s.withFb m).host = s.host := rfl
@[simp] theorem State.withFb_epoch (s : State) (m : Memory) :
    (s.withFb m).epoch = s.epoch := rfl

/-! ### withRot -/

@[simp] theorem State.withRot_cfg (s : State) (rot : Rot) :
    (s.withRot rot).cfg = s.cfg := rfl
@[simp] theorem State.withRot_phase (s : State) (rot : Rot) :
    (s.withRot rot).phase = s.phase := rfl
@[simp] theorem State.withRot_failed (s : State) (rot : Rot) :
    (s.withRot rot).failed = s.failed := rfl
@[simp] theorem State.withRot_scrolling (s : State) (rot : Rot) :
    (s.withRot rot).scrolling = s.scrolling := rfl
@[simp] theorem State.withRot_rot (s : State) (rot : Rot) :
    (s.withRot rot).rot = rot := rfl
@[simp] theorem State.withRot_variant (s : State) (rot : Rot) :
    (s.withRot rot).variant = s.variant := rfl
@[simp] theorem State.withRot_vcc (s : State) (rot : Rot) :
    (s.withRot rot).vcc = s.vcc := rfl
@[simp] theorem State.withRot_normcon (s : State) (rot : Rot) :
    (s.withRot rot).normcon = s.normcon := rfl
@[simp] theorem State.withRot_contrast (s : State) (rot : Rot) :
    (s.withRot rot).contrast = s.contrast := rfl
@[simp] theorem State.withRot_invert (s : State) (rot : Rot) :
    (s.withRot rot).invert = s.invert := rfl
@[simp] theorem State.withRot_dim (s : State) (rot : Rot) :
    (s.withRot rot).dim = s.dim := rfl
@[simp] theorem State.withRot_fb (s : State) (rot : Rot) :
    (s.withRot rot).fb = s.fb := rfl
@[simp] theorem State.withRot_tx (s : State) (rot : Rot) :
    (s.withRot rot).tx = s.tx := rfl
@[simp] theorem State.withRot_res (s : State) (rot : Rot) :
    (s.withRot rot).res = s.res := rfl
@[simp] theorem State.withRot_bmp (s : State) (rot : Rot) :
    (s.withRot rot).bmp = s.bmp := rfl
@[simp] theorem State.withRot_host (s : State) (rot : Rot) :
    (s.withRot rot).host = s.host := rfl
@[simp] theorem State.withRot_epoch (s : State) (rot : Rot) :
    (s.withRot rot).epoch = s.epoch := rfl

/-! ### withInvert -/

@[simp] theorem State.withInvert_cfg (s : State) (e : Bool) :
    (s.withInvert e).cfg = s.cfg := rfl
@[simp] theorem State.withInvert_phase (s : State) (e : Bool) :
    (s.withInvert e).phase = s.phase := rfl
@[simp] theorem State.withInvert_failed (s : State) (e : Bool) :
    (s.withInvert e).failed = s.failed := rfl
@[simp] theorem State.withInvert_scrolling (s : State) (e : Bool) :
    (s.withInvert e).scrolling = s.scrolling := rfl
@[simp] theorem State.withInvert_rot (s : State) (e : Bool) :
    (s.withInvert e).rot = s.rot := rfl
@[simp] theorem State.withInvert_variant (s : State) (e : Bool) :
    (s.withInvert e).variant = s.variant := rfl
@[simp] theorem State.withInvert_vcc (s : State) (e : Bool) :
    (s.withInvert e).vcc = s.vcc := rfl
@[simp] theorem State.withInvert_normcon (s : State) (e : Bool) :
    (s.withInvert e).normcon = s.normcon := rfl
@[simp] theorem State.withInvert_contrast (s : State) (e : Bool) :
    (s.withInvert e).contrast = s.contrast := rfl
@[simp] theorem State.withInvert_invert (s : State) (e : Bool) :
    (s.withInvert e).invert = e := rfl
@[simp] theorem State.withInvert_dim (s : State) (e : Bool) :
    (s.withInvert e).dim = s.dim := rfl
@[simp] theorem State.withInvert_fb (s : State) (e : Bool) :
    (s.withInvert e).fb = s.fb := rfl
@[simp] theorem State.withInvert_tx (s : State) (e : Bool) :
    (s.withInvert e).tx = s.tx := rfl
@[simp] theorem State.withInvert_res (s : State) (e : Bool) :
    (s.withInvert e).res = s.res := rfl
@[simp] theorem State.withInvert_bmp (s : State) (e : Bool) :
    (s.withInvert e).bmp = s.bmp := rfl
@[simp] theorem State.withInvert_host (s : State) (e : Bool) :
    (s.withInvert e).host = s.host := rfl
@[simp] theorem State.withInvert_epoch (s : State) (e : Bool) :
    (s.withInvert e).epoch = s.epoch := rfl

/-! ### withContrast -/

@[simp] theorem State.withContrast_cfg (s : State) (v : Byte) (e : Bool) :
    (s.withContrast v e).cfg = s.cfg := rfl
@[simp] theorem State.withContrast_phase (s : State) (v : Byte) (e : Bool) :
    (s.withContrast v e).phase = s.phase := rfl
@[simp] theorem State.withContrast_failed (s : State) (v : Byte) (e : Bool) :
    (s.withContrast v e).failed = s.failed := rfl
@[simp] theorem State.withContrast_scrolling (s : State) (v : Byte) (e : Bool) :
    (s.withContrast v e).scrolling = s.scrolling := rfl
@[simp] theorem State.withContrast_rot (s : State) (v : Byte) (e : Bool) :
    (s.withContrast v e).rot = s.rot := rfl
@[simp] theorem State.withContrast_variant (s : State) (v : Byte) (e : Bool) :
    (s.withContrast v e).variant = s.variant := rfl
@[simp] theorem State.withContrast_vcc (s : State) (v : Byte) (e : Bool) :
    (s.withContrast v e).vcc = s.vcc := rfl
@[simp] theorem State.withContrast_normcon (s : State) (v : Byte) (e : Bool) :
    (s.withContrast v e).normcon = s.normcon := rfl
@[simp] theorem State.withContrast_contrast (s : State) (v : Byte) (e : Bool) :
    (s.withContrast v e).contrast = v := rfl
@[simp] theorem State.withContrast_invert (s : State) (v : Byte) (e : Bool) :
    (s.withContrast v e).invert = s.invert := rfl
@[simp] theorem State.withContrast_dim (s : State) (v : Byte) (e : Bool) :
    (s.withContrast v e).dim = e := rfl
@[simp] theorem State.withContrast_fb (s : State) (v : Byte) (e : Bool) :
    (s.withContrast v e).fb = s.fb := rfl
@[simp] theorem State.withContrast_tx (s : State) (v : Byte) (e : Bool) :
    (s.withContrast v e).tx = s.tx := rfl
@[simp] theorem State.withContrast_res (s : State) (v : Byte) (e : Bool) :
    (s.withContrast v e).res = s.res := rfl
@[simp] theorem State.withContrast_bmp (s : State) (v : Byte) (e : Bool) :
    (s.withContrast v e).bmp = s.bmp := rfl
@[simp] theorem State.withContrast_host (s : State) (v : Byte) (e : Bool) :
    (s.withContrast v e).host = s.host := rfl
@[simp] theorem State.withContrast_epoch (s : State) (v : Byte) (e : Bool) :
    (s.withContrast v e).epoch = s.epoch := rfl

/-! ### withScrolling -/

@[simp] theorem State.withScrolling_cfg (s : State) (b : Bool) :
    (s.withScrolling b).cfg = s.cfg := rfl
@[simp] theorem State.withScrolling_phase (s : State) (b : Bool) :
    (s.withScrolling b).phase = s.phase := rfl
@[simp] theorem State.withScrolling_failed (s : State) (b : Bool) :
    (s.withScrolling b).failed = s.failed := rfl
@[simp] theorem State.withScrolling_scrolling (s : State) (b : Bool) :
    (s.withScrolling b).scrolling = b := rfl
@[simp] theorem State.withScrolling_rot (s : State) (b : Bool) :
    (s.withScrolling b).rot = s.rot := rfl
@[simp] theorem State.withScrolling_variant (s : State) (b : Bool) :
    (s.withScrolling b).variant = s.variant := rfl
@[simp] theorem State.withScrolling_vcc (s : State) (b : Bool) :
    (s.withScrolling b).vcc = s.vcc := rfl
@[simp] theorem State.withScrolling_normcon (s : State) (b : Bool) :
    (s.withScrolling b).normcon = s.normcon := rfl
@[simp] theorem State.withScrolling_contrast (s : State) (b : Bool) :
    (s.withScrolling b).contrast = s.contrast := rfl
@[simp] theorem State.withScrolling_invert (s : State) (b : Bool) :
    (s.withScrolling b).invert = s.invert := rfl
@[simp] theorem State.withScrolling_dim (s : State) (b : Bool) :
    (s.withScrolling b).dim = s.dim := rfl
@[simp] theorem State.withScrolling_fb (s : State) (b : Bool) :
    (s.withScrolling b).fb = s.fb := rfl
@[simp] theorem State.withScrolling_tx (s : State) (b : Bool) :
    (s.withScrolling b).tx = s.tx := rfl
@[simp] theorem State.withScrolling_res (s : State) (b : Bool) :
    (s.withScrolling b).res = s.res := rfl
@[simp] theorem State.withScrolling_bmp (s : State) (b : Bool) :
    (s.withScrolling b).bmp = s.bmp := rfl
@[simp] theorem State.withScrolling_host (s : State) (b : Bool) :
    (s.withScrolling b).host = s.host := rfl
@[simp] theorem State.withScrolling_epoch (s : State) (b : Bool) :
    (s.withScrolling b).epoch = s.epoch := rfl

/-! ### failBegin -/

@[simp] theorem State.failBegin_cfg (s : State) :
    (s.failBegin).cfg = s.cfg := rfl
@[simp] theorem State.failBegin_phase (s : State) :
    (s.failBegin).phase = s.phase := rfl
@[simp] theorem State.failBegin_failed (s : State) :
    (s.failBegin).failed = true := rfl
@[simp] theorem State.failBegin_scrolling (s : State) :
    (s.failBegin).scrolling = s.scrolling := rfl
@[simp] theorem State.failBegin_rot (s : State) :
    (s.failBegin).rot = s.rot := rfl
@[simp] theorem State.failBegin_variant (s : State) :
    (s.failBegin).variant = s.variant := rfl
@[simp] theorem State.failBegin_vcc (s : State) :
    (s.failBegin).vcc = s.vcc := rfl
@[simp] theorem State.failBegin_normcon (s : State) :
    (s.failBegin).normcon = s.normcon := rfl
@[simp] theorem State.failBegin_contrast (s : State) :
    (s.failBegin).contrast = s.contrast := rfl
@[simp] theorem State.failBegin_invert (s : State) :
    (s.failBegin).invert = s.invert := rfl
@[simp] theorem State.failBegin_dim (s : State) :
    (s.failBegin).dim = s.dim := rfl
@[simp] theorem State.failBegin_fb (s : State) :
    (s.failBegin).fb = s.fb := rfl
@[simp] theorem State.failBegin_tx (s : State) :
    (s.failBegin).tx = s.tx := rfl
@[simp] theorem State.failBegin_res (s : State) :
    (s.failBegin).res = false := rfl
@[simp] theorem State.failBegin_bmp (s : State) :
    (s.failBegin).bmp = s.bmp := rfl
@[simp] theorem State.failBegin_host (s : State) :
    (s.failBegin).host = s.host := rfl
@[simp] theorem State.failBegin_epoch (s : State) :
    (s.failBegin).epoch = s.epoch := rfl

/-! ### populate -/

@[simp] theorem State.populate_cfg (s : State) (vcc : Vcc) (variant : Variant) :
    (s.populate vcc variant).cfg = s.cfg := rfl
@[simp] theorem State.populate_phase (s : State) (vcc : Vcc) (variant : Variant) :
    (s.populate vcc variant).phase = .ready := rfl
@[simp] theorem State.populate_failed (s : State) (vcc : Vcc) (variant : Variant) :
    (s.populate vcc variant).failed = s.failed := rfl
@[simp] theorem State.populate_scrolling (s : State) (vcc : Vcc) (variant : Variant) :
    (s.populate vcc variant).scrolling = false := rfl
@[simp] theorem State.populate_rot (s : State) (vcc : Vcc) (variant : Variant) :
    (s.populate vcc variant).rot = s.rot := rfl
@[simp] theorem State.populate_variant (s : State) (vcc : Vcc) (variant : Variant) :
    (s.populate vcc variant).variant = variant := rfl
@[simp] theorem State.populate_vcc (s : State) (vcc : Vcc) (variant : Variant) :
    (s.populate vcc variant).vcc = vcc := rfl
@[simp] theorem State.populate_normcon (s : State) (vcc : Vcc) (variant : Variant) :
    (s.populate vcc variant).normcon = Config.normalContrast s.cfg.physW s.cfg.physH vcc := rfl
@[simp] theorem State.populate_contrast (s : State) (vcc : Vcc) (variant : Variant) :
    (s.populate vcc variant).contrast = Config.normalContrast s.cfg.physW s.cfg.physH vcc := rfl
@[simp] theorem State.populate_invert (s : State) (vcc : Vcc) (variant : Variant) :
    (s.populate vcc variant).invert = false := rfl
@[simp] theorem State.populate_dim (s : State) (vcc : Vcc) (variant : Variant) :
    (s.populate vcc variant).dim = false := rfl
@[simp] theorem State.populate_fb (s : State) (vcc : Vcc) (variant : Variant) :
    (s.populate vcc variant).fb = s.fb := rfl
@[simp] theorem State.populate_tx (s : State) (vcc : Vcc) (variant : Variant) :
    (s.populate vcc variant).tx = s.tx := rfl
@[simp] theorem State.populate_res (s : State) (vcc : Vcc) (variant : Variant) :
    (s.populate vcc variant).res = s.res := rfl
@[simp] theorem State.populate_bmp (s : State) (vcc : Vcc) (variant : Variant) :
    (s.populate vcc variant).bmp = s.bmp := rfl
@[simp] theorem State.populate_host (s : State) (vcc : Vcc) (variant : Variant) :
    (s.populate vcc variant).host = s.host := rfl
@[simp] theorem State.populate_epoch (s : State) (vcc : Vcc) (variant : Variant) :
    (s.populate vcc variant).epoch = s.epoch := rfl

/-! ### present -/

@[simp] theorem State.present_cfg (s : State) (b : List Byte) (rest : List HostEvent) :
    (s.present b rest).cfg = s.cfg := rfl
@[simp] theorem State.present_phase (s : State) (b : List Byte) (rest : List HostEvent) :
    (s.present b rest).phase = s.phase := rfl
@[simp] theorem State.present_failed (s : State) (b : List Byte) (rest : List HostEvent) :
    (s.present b rest).failed = s.failed := rfl
@[simp] theorem State.present_scrolling (s : State) (b : List Byte) (rest : List HostEvent) :
    (s.present b rest).scrolling = s.scrolling := rfl
@[simp] theorem State.present_rot (s : State) (b : List Byte) (rest : List HostEvent) :
    (s.present b rest).rot = s.rot := rfl
@[simp] theorem State.present_variant (s : State) (b : List Byte) (rest : List HostEvent) :
    (s.present b rest).variant = s.variant := rfl
@[simp] theorem State.present_vcc (s : State) (b : List Byte) (rest : List HostEvent) :
    (s.present b rest).vcc = s.vcc := rfl
@[simp] theorem State.present_normcon (s : State) (b : List Byte) (rest : List HostEvent) :
    (s.present b rest).normcon = s.normcon := rfl
@[simp] theorem State.present_contrast (s : State) (b : List Byte) (rest : List HostEvent) :
    (s.present b rest).contrast = s.contrast := rfl
@[simp] theorem State.present_invert (s : State) (b : List Byte) (rest : List HostEvent) :
    (s.present b rest).invert = s.invert := rfl
@[simp] theorem State.present_dim (s : State) (b : List Byte) (rest : List HostEvent) :
    (s.present b rest).dim = s.dim := rfl
@[simp] theorem State.present_fb (s : State) (b : List Byte) (rest : List HostEvent) :
    (s.present b rest).fb = s.fb := rfl
@[simp] theorem State.present_tx (s : State) (b : List Byte) (rest : List HostEvent) :
    (s.present b rest).tx = s.tx := rfl
@[simp] theorem State.present_res (s : State) (b : List Byte) (rest : List HostEvent) :
    (s.present b rest).res = s.res := rfl
@[simp] theorem State.present_bmp (s : State) (b : List Byte) (rest : List HostEvent) :
    (s.present b rest).bmp = b := rfl
@[simp] theorem State.present_host (s : State) (b : List Byte) (rest : List HostEvent) :
    (s.present b rest).host = rest := rfl
@[simp] theorem State.present_epoch (s : State) (b : List Byte) (rest : List HostEvent) :
    (s.present b rest).epoch = s.epoch + 1 := rfl

/-! ### resetWith, hostReset -/

@[simp] theorem State.resetWith_cfg (c : Config) (n : Nat) :
    (State.resetWith c n).cfg = c := rfl
@[simp] theorem State.resetWith_phase (c : Config) (n : Nat) :
    (State.resetWith c n).phase = .uninitialized := rfl
@[simp] theorem State.resetWith_failed (c : Config) (n : Nat) :
    (State.resetWith c n).failed = false := rfl
@[simp] theorem State.resetWith_scrolling (c : Config) (n : Nat) :
    (State.resetWith c n).scrolling = false := rfl
@[simp] theorem State.resetWith_rot (c : Config) (n : Nat) :
    (State.resetWith c n).rot = .deg0 := rfl
@[simp] theorem State.resetWith_variant (c : Config) (n : Nat) :
    (State.resetWith c n).variant = (Config.powerOn n).variant := rfl
@[simp] theorem State.resetWith_vcc (c : Config) (n : Nat) :
    (State.resetWith c n).vcc = (Config.powerOn n).vcc := rfl
@[simp] theorem State.resetWith_normcon (c : Config) (n : Nat) :
    (State.resetWith c n).normcon = (Config.powerOn n).normcon := rfl
@[simp] theorem State.resetWith_contrast (c : Config) (n : Nat) :
    (State.resetWith c n).contrast = (Config.powerOn n).contrast := rfl
@[simp] theorem State.resetWith_invert (c : Config) (n : Nat) :
    (State.resetWith c n).invert = (Config.powerOn n).invert := rfl
@[simp] theorem State.resetWith_dim (c : Config) (n : Nat) :
    (State.resetWith c n).dim = (Config.powerOn n).dim := rfl
@[simp] theorem State.resetWith_fb (c : Config) (n : Nat) :
    (State.resetWith c n).fb = imageFrom (Config.fbPowerOn n) 0 (fbBytes c) := rfl
@[simp] theorem State.resetWith_tx (c : Config) (n : Nat) :
    (State.resetWith c n).tx = [] := rfl
@[simp] theorem State.resetWith_res (c : Config) (n : Nat) :
    (State.resetWith c n).res = (Config.powerOn n).res := rfl
@[simp] theorem State.resetWith_bmp (c : Config) (n : Nat) :
    (State.resetWith c n).bmp = [] := rfl
@[simp] theorem State.resetWith_host (c : Config) (n : Nat) :
    (State.resetWith c n).host = [] := rfl
@[simp] theorem State.resetWith_epoch (c : Config) (n : Nat) :
    (State.resetWith c n).epoch = n := rfl

@[simp] theorem State.hostReset_cfg (s : State) (w h : BitVec 8) (z : BitVec 4)
    (rest : List HostEvent) : (s.hostReset w h z rest).cfg = { s.cfg with physW := w, physH := h, zoom := z } := rfl
@[simp] theorem State.hostReset_phase (s : State) (w h : BitVec 8) (z : BitVec 4)
    (rest : List HostEvent) : (s.hostReset w h z rest).phase = .uninitialized := rfl
@[simp] theorem State.hostReset_failed (s : State) (w h : BitVec 8) (z : BitVec 4)
    (rest : List HostEvent) : (s.hostReset w h z rest).failed = false := rfl
@[simp] theorem State.hostReset_scrolling (s : State) (w h : BitVec 8) (z : BitVec 4)
    (rest : List HostEvent) : (s.hostReset w h z rest).scrolling = false := rfl
@[simp] theorem State.hostReset_rot (s : State) (w h : BitVec 8) (z : BitVec 4)
    (rest : List HostEvent) : (s.hostReset w h z rest).rot = .deg0 := rfl
@[simp] theorem State.hostReset_variant (s : State) (w h : BitVec 8) (z : BitVec 4)
    (rest : List HostEvent) : (s.hostReset w h z rest).variant = (Config.powerOn (s.epoch + 1)).variant := rfl
@[simp] theorem State.hostReset_vcc (s : State) (w h : BitVec 8) (z : BitVec 4)
    (rest : List HostEvent) : (s.hostReset w h z rest).vcc = (Config.powerOn (s.epoch + 1)).vcc := rfl
@[simp] theorem State.hostReset_normcon (s : State) (w h : BitVec 8) (z : BitVec 4)
    (rest : List HostEvent) : (s.hostReset w h z rest).normcon = (Config.powerOn (s.epoch + 1)).normcon := rfl
@[simp] theorem State.hostReset_contrast (s : State) (w h : BitVec 8) (z : BitVec 4)
    (rest : List HostEvent) : (s.hostReset w h z rest).contrast = (Config.powerOn (s.epoch + 1)).contrast := rfl
@[simp] theorem State.hostReset_invert (s : State) (w h : BitVec 8) (z : BitVec 4)
    (rest : List HostEvent) : (s.hostReset w h z rest).invert = (Config.powerOn (s.epoch + 1)).invert := rfl
@[simp] theorem State.hostReset_dim (s : State) (w h : BitVec 8) (z : BitVec 4)
    (rest : List HostEvent) : (s.hostReset w h z rest).dim = (Config.powerOn (s.epoch + 1)).dim := rfl
@[simp] theorem State.hostReset_fb (s : State) (w h : BitVec 8) (z : BitVec 4)
    (rest : List HostEvent) : (s.hostReset w h z rest).fb = imageFrom (Config.fbPowerOn (s.epoch + 1)) 0
      (fbBytes { s.cfg with physW := w, physH := h, zoom := z }) := rfl
@[simp] theorem State.hostReset_tx (s : State) (w h : BitVec 8) (z : BitVec 4)
    (rest : List HostEvent) : (s.hostReset w h z rest).tx = [] := rfl
@[simp] theorem State.hostReset_res (s : State) (w h : BitVec 8) (z : BitVec 4)
    (rest : List HostEvent) : (s.hostReset w h z rest).res = (Config.powerOn (s.epoch + 1)).res := rfl
@[simp] theorem State.hostReset_bmp (s : State) (w h : BitVec 8) (z : BitVec 4)
    (rest : List HostEvent) : (s.hostReset w h z rest).bmp = [] := rfl
@[simp] theorem State.hostReset_host (s : State) (w h : BitVec 8) (z : BitVec 4)
    (rest : List HostEvent) : (s.hostReset w h z rest).host = rest := rfl
@[simp] theorem State.hostReset_epoch (s : State) (w h : BitVec 8) (z : BitVec 4)
    (rest : List HostEvent) : (s.hostReset w h z rest).epoch = s.epoch + 1 := rfl

end Sys2Proof.Machine
end

