-- ==== Sys2Proof/Laws/Outcome.lean ====
section
/-! SUPPORT. Everything the shared admission operations and a step can do, said once: provers cite these
and do not unfold `whenReady`, `unlessRefused` or `step`. -/

namespace Sys2Proof.Machine

theorem refusesOperation_none_iff (s : State) : refusesOperation s = none ↔ Admits s := by
  unfold refusesOperation Admits
  cases s.failed <;> cases s.phase <;> simp

theorem refusesBegin_none_iff (s : State) :
    refusesBegin s = none ↔ s.phase = .uninitialized ∧ s.failed = false := by
  unfold refusesBegin
  cases s.failed <;> cases s.phase <;> simp

/-- In an admitting state an operation ends in its effect. -/
theorem whenReady_of_admits {s : State} (h : Admits s) (t : State) : whenReady s t = .next t := by
  rw [whenReady, (refusesOperation_none_iff s).2 h]; rfl

/-- If an operation ends in a next state, the state admitted it and that state is its effect. -/
theorem whenReady_next {s t u : State} (h : whenReady s t = .next u) : Admits s ∧ u = t := by
  unfold whenReady unlessRefused at h
  split at h
  · cases h
  · rename_i hn
    cases h
    exact ⟨(refusesOperation_none_iff s).1 hn, rfl⟩

/-- A state that does not admit an operation refuses it, for R242's reason. -/
theorem whenReady_of_not_admits {s : State} (h : ¬ Admits s) (t : State) :
    whenReady s t = .refused (if s.failed then .afterFailedBegin else .notBegun) := by
  unfold Admits at h
  unfold whenReady unlessRefused refusesOperation
  cases hf : s.failed <;> cases hp : s.phase <;> simp_all

/-- BEGIN where it is admitted. -/
theorem execBegin_of_admitted {s : State} (hp : s.phase = .uninitialized) (hf : s.failed = false)
    (vcc : Vcc) (variant : Variant) :
    execBegin vcc variant s =
      .next (if configUsable s.cfg then s.startUp vcc variant else s.failBegin) := by
  rw [execBegin, (refusesBegin_none_iff s).2 ⟨hp, hf⟩]; rfl

/-- If BEGIN ends in a next state, it was admitted and did one of its two things. -/
theorem execBegin_next {s t : State} {vcc : Vcc} {variant : Variant}
    (h : execBegin vcc variant s = .next t) :
    s.phase = .uninitialized ∧ s.failed = false ∧
      ((configUsable s.cfg = true ∧ t = s.startUp vcc variant) ∨
       (configUsable s.cfg = false ∧ t = s.failBegin)) := by
  unfold execBegin unlessRefused at h
  split at h
  · cases h
  · rename_i hn
    obtain ⟨hp, hf⟩ := (refusesBegin_none_iff s).1 hn
    refine ⟨hp, hf, ?_⟩
    cases hu : configUsable s.cfg <;> simp [hu] at h <;> subst h <;> simp

/-- What a step that ends in a next state did. -/
theorem step_next {s t : State} (h : step s = .next t) :
    (s.host = [] ∧ t = s) ∨
    (∃ w hh z rest, s.host = .reset w hh z :: rest ∧ t = s.hostReset w hh z rest) ∨
    (∃ word bmp rest i, s.host = .command word bmp :: rest ∧ decode word = .ok i ∧
      exec i (s.present bmp rest) = .next t) := by
  unfold step at h
  split at h
  · rename_i hh
    cases h
    exact .inl ⟨hh, rfl⟩
  · rename_i w ph z rest hh
    cases h
    exact .inr (.inl ⟨w, ph, z, rest, hh, rfl⟩)
  · rename_i word bmp rest hh
    split at h
    · rename_i i hi
      exact .inr (.inr ⟨word, bmp, rest, i, hh, hi, h⟩)
    · cases h

end Sys2Proof.Machine
end

