-- ==== Sys2Proof/Laws/PerInstr.lean ====
section
/-! SUPPORT. One statement per constructor of `Instr`, about the operation as syntax. `EncodedOpcode`: the
encoder writes the `op` field of the operation's own row of spec/30_encoding.md R75. -/

namespace Sys2Proof.Laws.EncodedOpcode

/-- Some row of R75 has the operation's mnemonic, and the encoded word has that row's `op`. -/
def Statement (i : Instr) : Prop :=
  ∃ r ∈ opcodeTable, r.mnemonic = i.mnemonic ∧ opField (encode i) = opField r.pattern

/-- The row at place `k` of the table serves. -/
theorem of_row {i : Instr} (k : Nat) (hk : k < opcodeTable.length)
    (hm : opcodeTable[k].mnemonic = i.mnemonic)
    (ho : opField (encode i) = opField opcodeTable[k].pattern) : Statement i :=
  ⟨opcodeTable[k], List.getElem_mem hk, hm, ho⟩

theorem begin (vcc : Vcc) (variant : Variant) : Statement (.begin vcc variant) :=
  of_row 0 (by decide) rfl (by rw [encode, opField_packWord]; decide)

theorem clear : Statement .clear :=
  of_row 1 (by decide) rfl (by rw [encode, opField_packWord]; decide)

theorem setrot (rot : Rot) : Statement (.setrot rot) :=
  of_row 2 (by decide) rfl (by rw [encode, opField_packWord]; decide)

theorem setpix (x y : Int) (color : Color) : Statement (.setpix x y color) :=
  of_row 3 (by decide) rfl (by rw [encode, opField_packWord]; decide)

theorem getpix (x y : Int) : Statement (.getpix x y) :=
  of_row 4 (by decide) rfl (by rw [encode, opField_packWord]; decide)

theorem hrun (x y len : Int) (color : Color) : Statement (.hrun x y len color) :=
  of_row 5 (by decide) rfl (by rw [encode, opField_packWord]; decide)

theorem vrun (x y len : Int) (color : Color) : Statement (.vrun x y len color) :=
  of_row 6 (by decide) rfl (by rw [encode, opField_packWord]; decide)

theorem xferfull : Statement .xferfull :=
  of_row 7 (by decide) rfl (by rw [encode, opField_packWord]; decide)

theorem xferrgn (x y w h : Int) : Statement (.xferrgn x y w h) :=
  of_row 8 (by decide) rfl (by rw [encode, opField_packWord]; decide)

theorem blit (px py bw bh : Nat) (mirror invert : Bool) : Statement (.blit px py bw bh mirror invert) :=
  of_row 9 (by decide) rfl (by rw [encode, opField_packWord]; decide)

theorem setinv (enable : Bool) : Statement (.setinv enable) :=
  of_row 10 (by decide) rfl (by rw [encode, opField_packWord]; decide)

theorem setdim (enable : Bool) : Statement (.setdim enable) :=
  of_row 11 (by decide) rfl (by rw [encode, opField_packWord]; decide)

theorem scrr (start stop : Byte) : Statement (.scrr start stop) :=
  of_row 12 (by decide) rfl (by rw [encode, opField_packWord]; decide)

theorem scrl (start stop : Byte) : Statement (.scrl start stop) :=
  of_row 13 (by decide) rfl (by rw [encode, opField_packWord]; decide)

theorem scrdr (start stop : Byte) : Statement (.scrdr start stop) :=
  of_row 14 (by decide) rfl (by rw [encode, opField_packWord]; decide)

theorem scrdl (start stop : Byte) : Statement (.scrdl start stop) :=
  of_row 15 (by decide) rfl (by rw [encode, opField_packWord]; decide)

theorem scrstop : Statement .scrstop :=
  of_row 16 (by decide) rfl (by rw [encode, opField_packWord]; decide)

end Sys2Proof.Laws.EncodedOpcode
end

