-- ==== Sys2Proof/Laws/Pixel.lean ====
section
/-! SUPPORT. What one pixel write can do, said once: `Pack` never gives two pixels one bit, and
`paintPixel` changes the one bit that `Pack` names. Proofs about SETPIX and the runs cite these and do not
unfold `pack` or `paintPixel`. -/

namespace Sys2Proof.Machine

/-- If `Pack` is valid, it names the bit of buffer coordinates inside FB (R51, R102). -/
theorem pack_some {c : Config} {rot : Rot} {x y : Int} {p : PixelAddr} (h : pack c rot x y = some p) :
    ∃ bx row : Nat, remap c rot x y = ((bx : Int), (row : Int)) ∧ bx < logicalWidth c ∧
      row < logicalHeight c ∧ p = ⟨byteIndex c bx row, bitIndex row⟩ := by
  simp only [pack] at h
  split at h
  · rename_i hb
    cases h
    refine ⟨(remap c rot x y).1.toNat, (remap c rot x y).2.toNat, ?_, by omega, by omega, rfl⟩
    ext <;> simp <;> omega
  · cases h

/-- Buffer coordinates inside FB have a bit of their own (R51). -/
theorem byteIndex_inj {c : Config} {bx row bx' row' : Nat} (h : bx < logicalWidth c)
    (h' : bx' < logicalWidth c) (hi : byteIndex c bx row = byteIndex c bx' row')
    (hb : bitIndex row = bitIndex row') : bx = bx' ∧ row = row' := by
  unfold byteIndex at hi
  unfold bitIndex at hb
  have page : row / 8 = row' / 8 := by
    have e : (row / 8 * logicalWidth c + bx) / logicalWidth c = row / 8 := by
      rw [Nat.mul_comm, Nat.mul_add_div (by omega), Nat.div_eq_of_lt h, Nat.add_zero]
    have e' : (row' / 8 * logicalWidth c + bx') / logicalWidth c = row' / 8 := by
      rw [Nat.mul_comm, Nat.mul_add_div (by omega), Nat.div_eq_of_lt h', Nat.add_zero]
    rw [← e, hi, e']
  rw [page] at hi
  omega

/-- The remap loses no pixel (R101). -/
theorem remap_inj {c : Config} {rot : Rot} {x y x' y' : Int}
    (h : remap c rot x y = remap c rot x' y') : x = x' ∧ y = y' := by
  cases rot <;> simp only [remap, Prod.mk.injEq] at h <;> omega

/-- Two application pixels with one bit are one pixel. -/
theorem pack_inj {c : Config} {rot : Rot} {x y x' y' : Int} {p : PixelAddr}
    (h : pack c rot x y = some p) (h' : pack c rot x' y' = some p) : x = x' ∧ y = y' := by
  obtain ⟨bx, row, hr, hx, -, rfl⟩ := pack_some h
  obtain ⟨bx', row', hr', hx', -, hp⟩ := pack_some h'
  obtain ⟨hi, hb⟩ := PixelAddr.mk.inj hp
  obtain ⟨rfl, rfl⟩ := byteIndex_inj hx hx' hi hb
  exact remap_inj (hr.trans hr'.symm)

/-- A one-bit mask has its one bit. -/
theorem getLsbD_bitMask {bit j : Nat} (hb : bit < 8) (hj : j < 8) :
    (bitMask bit).getLsbD j = decide (j = bit) := by
  have all : ∀ bit j : Fin 8, (bitMask bit).getLsbD j = decide ((j : Nat) = bit) := by decide
  exact all ⟨bit, hb⟩ ⟨j, hj⟩

/-- What a colour does bit by bit (R104): bits outside the mask stay. -/
theorem getLsbD_applyColor (color : Color) (b mask : Byte) {j : Nat} (hj : j < 8) :
    (applyColor color b mask).getLsbD j =
      if mask.getLsbD j then
        match color with
        | .off => false
        | .on => true
        | .invert => !b.getLsbD j
      else b.getLsbD j := by
  cases color <;>
    simp only [applyColor, BitVec.getLsbD_and, BitVec.getLsbD_or, BitVec.getLsbD_xor,
      BitVec.getLsbD_not, hj] <;>
    cases mask.getLsbD j <;> simp

/-- One pixel write, bit by bit: the bit `Pack` names takes the colour, every other bit stays. -/
theorem getLsbD_paintPixel {m : Memory} (h : m.wf = true) (c : Config) (rot : Rot) (color : Color)
    (x y : Int) (idx : Nat) {j : Nat} (hj : j < 8) :
    (readByte (paintPixel c rot color m x y) idx).getLsbD j =
      if pack c rot x y = some ⟨idx, j⟩ then
        match color with
        | .off => false
        | .on => true
        | .invert => !(readByte m idx).getLsbD j
      else (readByte m idx).getLsbD j := by
  unfold paintPixel
  cases hp : pack c rot x y with
  | none => simp
  | some p =>
    obtain ⟨i, b⟩ := p
    have hb := (pack_idx_lt hp).2
    simp only [readByte_applyAt h]
    by_cases hi : idx = i
    · subst hi
      rw [if_pos rfl, getLsbD_applyColor _ _ _ hj, getLsbD_bitMask hb hj]
      by_cases hjb : j = b
      · simp [hjb]
      · simp [hjb, Ne.symm hjb]
    · simp [hi, Ne.symm hi]

end Sys2Proof.Machine
end

