-- ==== Sys2Proof/Laws/Raster.lean ====
section
/-! SUPPORT. The windows of XFERRGN and BLIT with their constants written out, and where an element of a
page-by-page list stands. Proofs about transfers cite these and do not unfold `region`, `blitWindow`. -/

namespace Sys2Proof.Machine

/-- `Region` (R164), with the panel's size as the straps give it. -/
theorem region_eq (c : Config) (x y w h : Int) :
    region c x y w h =
      if w ≤ 0 ∨ h ≤ 0 ∨ max x 0 > min (x + w) (c.physW.toNat : Int) - 1 ∨
          max y 0 > min (y + h) (c.physH.toNat : Int) - 1 then none
      else some ⟨(max y 0).toNat / 8, (min (y + h) (c.physH.toNat : Int) - 1).toNat / 8,
        (max x 0).toNat, (min (x + w) (c.physW.toNat : Int) - 1).toNat⟩ := rfl

/-- BLIT's window (R140), with the panel's size and the zoom as the straps give them. -/
theorem blitWindow_eq (c : Config) (px py bw bh : Nat) :
    blitWindow c px py bw bh =
      if bw = 0 ∨ bh = 0 ∨ (px : Int) > (min (px + bw * c.zoom.toNat) c.physW.toNat : Nat) - 1 ∨
          ((py / 8 : Nat) : Int) >
            (min (py / 8 + (bh + 7) / 8 * c.zoom.toNat) (physPages c) : Nat) - 1 then none
      else some ⟨py / 8,
        ((min (py / 8 + (bh + 7) / 8 * c.zoom.toNat) (physPages c) : Nat) - 1 : Int).toNat, px,
        ((min (px + bw * c.zoom.toNat) c.physW.toNat : Nat) - 1 : Int).toNat⟩ := rfl

/-- A window BLIT sends is not empty, starts at its place and stays on the panel. -/
theorem blitWindow_some {c : Config} {px py bw bh : Nat} {win : Window}
    (h : blitWindow c px py bw bh = some win) :
    win.p0 = py / 8 ∧ win.x0 = px ∧ win.p0 ≤ win.p1 ∧ win.x0 ≤ win.x1 ∧
      win.p1 < physPages c ∧ win.x1 < c.physW.toNat ∧
      win.p1 < py / 8 + (bh + 7) / 8 * c.zoom.toNat ∧ win.x1 < px + bw * c.zoom.toNat := by
  rw [blitWindow_eq] at h
  split at h
  · cases h
  · cases h
    refine ⟨rfl, rfl, ?_, ?_, ?_, ?_, ?_, ?_⟩ <;> simp only <;> omega

/-- Every page has a prefix of the same length. -/
theorem pagePrefix_length (c : Config) (variant : Variant) (p p' x0 : Nat) :
    (pagePrefix c variant p x0).length = (pagePrefix c variant p' x0).length := by
  cases variant with
  | ssd1306 => rfl
  | sh1106 => unfold pagePrefix; cases c.shPerPage <;> rfl

/-- Lists of one length put end to end: the length, and where element `j` of list `q` stands. -/
theorem flatMap_range'_index {α : Type} (g : Nat → List α) (len start n : Nat)
    (hg : ∀ p, (g p).length = len) :
    ((List.range' start n).flatMap g).length = n * len ∧
    ∀ q, q < n → ∀ j, j < len →
      ((List.range' start n).flatMap g)[q * len + j]? = (g (start + q))[j]? := by
  induction n generalizing start with
  | zero => simp
  | succ n ih =>
    obtain ⟨hlen, hget⟩ := ih (start + 1)
    rw [List.range'_succ, List.flatMap_cons]
    refine ⟨by rw [List.length_append, hlen, hg]; ring, fun q hq j hj => ?_⟩
    cases q with
    | zero => rw [List.getElem?_append_left (by rw [hg]; omega)]; simp
    | succ q =>
      rw [List.getElem?_append_right (by rw [hg, Nat.add_mul]; omega), hg,
        show (q + 1) * len + j - len = q * len + j by rw [Nat.add_mul]; omega, hget q (by omega) j hj]
      congr 2
      omega

end Sys2Proof.Machine
end

