-- ==== Sys2Proof/Tests/Slice0.lean ====
section
/-! SUPPORT. The model's own tests. Expected results are the spec's: the vectors V<n> and programs P<n> of
spec/95_test_vectors.md, and words written out from the encodings of spec/30_encoding.md R70 and R75. After
them, for every obligation with hypotheses, a witness that meets them. -/

namespace Sys2Proof.Tests

open Sys2Proof.Machine Sys2Proof.Claims

/-! ### Small states -/

/-- CFG-A, with the default opcodes of spec/93_implementation_defined.md U8. -/
def cfgA : Config where
  physW := 128
  physH := 64
  zoom := 2
  fbCapacity := 256
  transport := .i2c
  dimContrast := 0x00
  cmdPageAddr := 0x22
  cmdColumnAddr := 0x21
  cmdSetLowColumn := 0x00
  cmdSetHighColumn := 0x10
  cmdSetPage := 0xB0
  cmdNormalDisplay := 0xA6
  cmdInvertDisplay := 0xA7
  cmdSetContrast := 0x81
  cmdDeactivateScroll := 0x2E
  shColOffset := 2
  shPerPage := false

/-- CFG-A with another panel and zoom. -/
def panel (w h : BitVec 8) (z : BitVec 4) : Config := { cfgA with physW := w, physH := h, zoom := z }

/-- A Ready state of configuration `c`: FB all zero, TX counted from empty. -/
def fresh (c : Config) : State where
  cfg := c
  phase := .ready
  failed := false
  scrolling := false
  rot := .deg0
  variant := .ssd1306
  vcc := .internal
  normcon := 0xCF
  contrast := 0xCF
  invert := false
  dim := false
  fb := []
  tx := []
  res := false
  bmp := []
  host := []
  epoch := 0

/-- CFG-A fresh. -/
def freshA : State := fresh cfgA

/-- A state before BEGIN. -/
def waiting (c : Config) : State := { fresh c with phase := .uninitialized }

/-- A state after a failed BEGIN. -/
def dead (c : Config) : State := { waiting c with failed := true }

/-- A session that BEGIN INT, SSD1306 started on CFG-A. -/
def session : State :=
  { freshA with
    normcon := Config.normalContrast 128 64 .internal
    contrast := Config.normalContrast 128 64 .internal
    tx := asCommands (Config.initSeq 128 64 .internal .ssd1306) }

/-- The host presents one word. -/
def given (s : State) (w : CmdWord) : State := { s with host := [.command w []] }

/-- The next state of an outcome. -/
def nextOf : Result → Option State
  | .next t => some t
  | _ => none

/-- The reason of a refusal. -/
def refusalOf : Result → Option Refusal
  | .refused r => some r
  | _ => none

/-- The reason a word is rejected. -/
def rejectOf (w : CmdWord) : Option Reject :=
  match decode w with
  | .ok _ => none
  | .error e => some e

/-! ### WellFormed refuses: one ill-formed term for each check (R72, R73) -/

theorem test_wf_setpix : (Instr.setpix 32768 0 .on).wellFormed = false ∧
    (Instr.setpix 0 (-32769) .on).wellFormed = false ∧
    (Instr.setpix (-32768) 32767 .on).wellFormed = true := by decide
theorem test_wf_getpix : (Instr.getpix (-32769) 0).wellFormed = false ∧
    (Instr.getpix 0 32768).wellFormed = false := by decide
theorem test_wf_hrun : (Instr.hrun 32768 0 0 .on).wellFormed = false ∧
    (Instr.hrun 0 32768 0 .on).wellFormed = false ∧
    (Instr.hrun 0 0 (-32769) .on).wellFormed = false := by decide
theorem test_wf_vrun : (Instr.vrun (-32769) 0 0 .on).wellFormed = false ∧
    (Instr.vrun 0 (-32769) 0 .on).wellFormed = false ∧
    (Instr.vrun 0 0 32768 .on).wellFormed = false := by decide
theorem test_wf_xferrgn : (Instr.xferrgn 32768 0 0 0).wellFormed = false ∧
    (Instr.xferrgn 0 (-32769) 0 0).wellFormed = false ∧
    (Instr.xferrgn 0 0 32768 0).wellFormed = false ∧
    (Instr.xferrgn 0 0 0 32768).wellFormed = false := by decide
theorem test_wf_blit : (Instr.blit 65536 0 0 0 false false).wellFormed = false ∧
    (Instr.blit 0 65536 0 0 false false).wellFormed = false ∧
    (Instr.blit 0 0 65536 0 false false).wellFormed = false ∧
    (Instr.blit 0 0 0 65536 false false).wellFormed = false := by decide

/-! ### Decoding: one written-out word per constructor (R70, R75), `op fl a b c d` -/

theorem test_decode_begin : decode 0x01030000000000000000 = .ok (.begin .external .sh1106) := by rfl
theorem test_decode_clear : decode 0x02000000000000000000 = .ok .clear := by rfl
theorem test_decode_setrot : decode 0x03020000000000000000 = .ok (.setrot .deg180) := by rfl
theorem test_decode_setpix : decode 0x1002FFFE7FFF00000000 = .ok (.setpix (-2) 32767 .invert) := by
  rfl
theorem test_decode_getpix : decode 0x11000040FFFF00000000 = .ok (.getpix 64 (-1)) := by rfl
theorem test_decode_hrun : decode 0x1200800000007FFF0000 = .ok (.hrun (-32768) 0 32767 .off) := by
  rfl
theorem test_decode_vrun : decode 0x13010005FFFC00080000 = .ok (.vrun 5 (-4) 8 .on) := by rfl
theorem test_decode_xferfull : decode 0x20000000000000000000 = .ok .xferfull := by rfl
theorem test_decode_xferrgn : decode 0x2100FFFBFFFA000A0014 = .ok (.xferrgn (-5) (-6) 10 20) := by
  rfl
theorem test_decode_blit : decode 0x2201FFFF000D00020008 = .ok (.blit 65535 13 2 8 true false) := by
  rfl
theorem test_decode_setinv : decode 0x30010000000000000000 = .ok (.setinv true) := by rfl
theorem test_decode_setdim : decode 0x31000000000000000000 = .ok (.setdim false) := by rfl
theorem test_decode_scrr : decode 0x38000000000700000000 = .ok (.scrr 0 7) := by rfl
theorem test_decode_scrl : decode 0x39000007000000000000 = .ok (.scrl 7 0) := by rfl
theorem test_decode_scrdr : decode 0x3A0000FF00FE00000000 = .ok (.scrdr 255 254) := by rfl
theorem test_decode_scrdl : decode 0x3B000002000500000000 = .ok (.scrdl 2 5) := by rfl
theorem test_decode_scrstop : decode 0x3F000000000000000000 = .ok .scrstop := by rfl

/-- V14.7, V14.9: opcodes the table does not list. -/
theorem test_reject_opcode : rejectOf 0x00000000000000000000 = some .unknownOpcode ∧
    rejectOf 0x14000000000000000000 = some .unknownOpcode ∧
    rejectOf 0x3C000000000000000000 = some .unknownOpcode := by decide
/-- V6.2, V6.4, V10.6, V12.11, V12.12, V15: bits that must be 0. -/
theorem test_reject_bits : rejectOf 0x02000001000000000000 = some .reservedBits ∧
    rejectOf 0x03040000000000000000 = some .reservedBits ∧
    rejectOf 0x20000000000000000001 = some .reservedBits ∧
    rejectOf 0x38000100000700000000 = some .reservedBits ∧
    rejectOf 0x30020000000000000000 = some .reservedBits ∧
    rejectOf 0x11010000000000000000 = some .reservedBits ∧
    rejectOf 0x13010000000000018000 = some .reservedBits := by decide
/-- V3.11, V4.8: colour 3. -/
theorem test_reject_colour : rejectOf 0x10030000000000000000 = some .reservedColour ∧
    rejectOf 0x12030000000000050000 = some .reservedColour := by decide

/-- R80's syntax, on V3.8. -/
theorem test_assembly : (Instr.setpix (-1) (-1) .on).assembly = "SETPIX -1, -1, ON" := by decide

/-! ### Shared functions -/

/-- V1.12, V1.21, V1.25, V1.17. -/
theorem test_pack : pack cfgA .deg90 3 10 = some ⟨53, 3⟩ ∧ pack cfgA .deg180 3 10 = some ⟨188, 5⟩ ∧
    pack cfgA .deg270 3 10 = some ⟨202, 4⟩ ∧ pack cfgA .deg90 0 64 = none := by decide
/-- V2, the byte 0x12. -/
theorem test_expand : expandSeq 1 0x12 = [0x12] ∧ expandSeq 2 0x12 = [0x0C, 0x03] ∧
    expandSeq 4 0x12 = [0xF0, 0x00, 0x0F, 0x00] ∧
    expandSeq 8 0x12 = [0x00, 0xFF, 0x00, 0x00, 0xFF, 0x00, 0x00, 0x00] := by decide
/-- V7. -/
theorem test_physByte : physByte cfgA [(0, 0x01), (65, 0xA5)] 2 3 = 0x33 ∧
    physByte cfgA [(0, 0x01), (65, 0xA5)] 3 2 = 0xCC ∧
    physByte cfgA [(0, 0x01), (65, 0xA5)] 0 1 = 0x03 := by decide
/-- V8.3, V8.7, V8.9, V8.10, V8.13. -/
theorem test_region : region cfgA (-5) (-5) 10 10 = some ⟨0, 0, 0, 4⟩ ∧
    region cfgA 5 8 1 9 = some ⟨1, 2, 5, 5⟩ ∧ region cfgA (-10) 0 11 8 = some ⟨0, 0, 0, 0⟩ ∧
    region cfgA (-10) 0 10 8 = none ∧ region cfgA (-32768) (-32768) 32767 32767 = none := by decide
/-- V9.2, V9.5, V9.6, with the defaults of U8. -/
theorem test_window : windowCommands cfgA .ssd1306 ⟨1, 1, 3, 6⟩ =
      asCommands [0x22, 0x01, 0x01, 0x21, 0x03, 0x06] ∧
    windowCommands cfgA .sh1106 ⟨0, 0, 30, 30⟩ = asCommands [0x22, 0x00, 0x00, 0x00, 0x12] ∧
    pagePrefix { cfgA with shPerPage := true } .sh1106 1 3 = asCommands [0xB1, 0x05, 0x10] := by decide

/-! ### One operation each -/

/-- V13.1. -/
theorem test_begin_ready : (nextOf (exec (.begin .internal .ssd1306) (waiting cfgA))).map
    (fun t => (t.phase, t.failed, t.res)) = some (.ready, false, true) := by decide
/-- V13.2: one byte of RAM too few. -/
theorem test_begin_capacity : (nextOf (exec (.begin .internal .ssd1306)
    (waiting { cfgA with fbCapacity := 255 }))).map (fun t => (t.phase, t.failed, t.res, t.tx)) =
      some (.uninitialized, true, false, []) := by decide
/-- V6.1. -/
theorem test_clear : (nextOf (exec .clear { freshA with fb := [(0, 0x01), (255, 0xFF)] })).map
    State.fb = some [] := by decide
/-- V6.3. -/
theorem test_setrot : (nextOf (exec (.setrot .deg270) freshA)).map (fun t => (t.rot, t.fb, t.tx)) =
    some (.deg270, [], []) := by decide
/-- V3.1. -/
theorem test_setpix_on : (nextOf (exec (.setpix 3 10 .on) freshA)).map State.fb =
    some [(67, 0x04)] := by decide
/-- V3.3. -/
theorem test_setpix_invert : (nextOf (exec (.setpix 3 10 .invert)
    { freshA with fb := [(67, 0x04)] })).map State.fb = some [] := by decide
/-- V3.2. -/
theorem test_getpix_on : (nextOf (exec (.getpix 3 10) { freshA with fb := [(67, 0x04)] })).map
    State.res = some true := by decide
/-- V3.10. -/
theorem test_getpix_outside : (nextOf (exec (.getpix (-1) 0) { freshA with fb := [(63, 0xFF)] })).map
    State.res = some false := by decide
/-- V4.2. -/
theorem test_hrun_clips_left : (nextOf (exec (.hrun (-3) 5 6 .on) freshA)).map State.fb =
    some [(0, 0x20), (1, 0x20), (2, 0x20)] := by decide
/-- V4.7. -/
theorem test_hrun_rotated : (nextOf (exec (.hrun 0 0 5 .on) { freshA with rot := .deg90 })).map
    State.fb = some [(63, 0x1F)] := by decide
/-- V5.4. -/
theorem test_vrun_off : (nextOf (exec (.vrun 7 3 10 .off)
    { freshA with fb := [(7, 0xFF), (71, 0xFF), (135, 0xFF), (199, 0xFF)] })).map State.fb =
      some [(7, 0x07), (71, 0xE0), (135, 0xFF), (199, 0xFF)] := by decide
/-- V5.8. -/
theorem test_vrun_rotated : (nextOf (exec (.vrun 0 0 3 .on) { freshA with rot := .deg270 })).map
    State.fb = some [(192, 0x80), (193, 0x80), (194, 0x80)] := by decide
/-- P2's transfer: its 32 data bytes. -/
theorem test_xferfull : (nextOf (exec .xferfull { fresh (panel 16 16 4) with
      fb := [(0, 0x04), (1, 0x0B), (2, 0x04), (3, 0x0C)] })).map (fun t => dataBytes t.tx) =
    some [0x00, 0x00, 0x00, 0x00, 0xFF, 0xFF, 0xFF, 0xFF, 0x00, 0x00, 0x00, 0x00, 0x00, 0x00, 0x00, 0x00,
      0x0F, 0x0F, 0x0F, 0x0F, 0xF0, 0xF0, 0xF0, 0xF0, 0x0F, 0x0F, 0x0F, 0x0F, 0xFF, 0xFF, 0xFF, 0xFF] := by
  decide
/-- V10.1. -/
theorem test_xferrgn : (nextOf (exec (.xferrgn 3 10 4 3)
      { freshA with fb := [(1, 0x40), (2, 0xF0), (3, 0x10)] })).map State.tx =
    some (asCommands [0x22, 1, 1, 0x21, 3, 6] ++ [.data 0x30, .data 0xFF, .data 0xFF, .data 0x03]) := by
  decide
/-- V10.3: SH1106, per page. -/
theorem test_xferrgn_per_page : (nextOf (exec (.xferrgn 3 10 4 12)
      { fresh { cfgA with shPerPage := true } with variant := .sh1106 })).map State.tx =
    some (asCommands [0xB1, 0x05, 0x10] ++ [.data 0, .data 0, .data 0, .data 0] ++
      asCommands [0xB2, 0x05, 0x10] ++ [.data 0, .data 0, .data 0, .data 0]) := by decide
/-- V11.4: mirror and invert. -/
theorem test_blit : (nextOf (exec (.blit 4 8 2 8 true true) { freshA with bmp := [0x01, 0x80] })).map
    State.tx = some (asCommands [0x22, 1, 2, 0x21, 4, 7] ++ [.data 0xFF, .data 0xFF, .data 0xFC,
      .data 0xFC, .data 0x3F, .data 0x3F, .data 0xFF, .data 0xFF]) := by decide
/-- V11.6: clipped right and bottom. -/
theorem test_blit_clipped : (nextOf (exec (.blit 126 56 2 8 false false)
      { freshA with bmp := [0xA5, 0xFF] })).map State.tx =
    some (asCommands [0x22, 7, 7, 0x21, 126, 127] ++ [.data 0x33, .data 0x33]) := by decide
/-- V12.1. -/
theorem test_setinv_on : (nextOf (exec (.setinv true) freshA)).map (fun t => (t.tx, t.invert)) =
    some ([.command 0xA7], true) := by decide
/-- V12.2. -/
theorem test_setinv_off : (nextOf (exec (.setinv false) { freshA with invert := true })).map
    (fun t => (t.tx, t.invert)) = some ([.command 0xA6], false) := by decide
/-- V12.3. -/
theorem test_setdim_on : (nextOf (exec (.setdim true) freshA)).map
    (fun t => (t.tx, t.dim, t.contrast)) = some ([.command 0x81, .command 0x00], true, 0x00) := by decide
/-- V12.4. -/
theorem test_setdim_off : (nextOf (exec (.setdim false) { freshA with dim := true, contrast := 0 })).map
    (fun t => (t.tx, t.dim, t.contrast)) = some ([.command 0x81, .command 0xCF], false, 0xCF) := by decide
/-- V12.6: the sequence of kind R, start 0, stop 7. -/
theorem test_scrr : (nextOf (exec (.scrr 0 7) freshA)).map (fun t => (t.tx, t.scrolling)) =
    some (asCommands (scrollSeq cfgA .right 0 7), true) := by rfl
/-- V12.7. -/
theorem test_scrl : (nextOf (exec (.scrl 0 7) freshA)).map (fun t => (t.tx, t.scrolling)) =
    some (asCommands (scrollSeq cfgA .left 0 7), true) := by rfl
/-- V12.8. -/
theorem test_scrdr : (nextOf (exec (.scrdr 0 7) freshA)).map (fun t => (t.tx, t.scrolling)) =
    some (asCommands (scrollSeq cfgA .diagRight 0 7), true) := by rfl
/-- V12.9. -/
theorem test_scrdl : (nextOf (exec (.scrdl 2 5) freshA)).map (fun t => (t.tx, t.scrolling)) =
    some (asCommands (scrollSeq cfgA .diagLeft 2 5), true) := by rfl
/-- V12.5. -/
theorem test_scrstop : (nextOf (exec .scrstop { freshA with scrolling := true })).map
    (fun t => (t.tx, t.scrolling)) = some ([.command 0x2E], false) := by decide

/-! ### Refusals, in the order of R242 -/

/-- V14.1, V14.4, V14.5, V14.6. -/
theorem test_refusals : refusalOf (exec (.setpix 0 0 .on) (waiting cfgA)) = some .notBegun ∧
    refusalOf (exec (.begin .internal .ssd1306) freshA) = some .beginWhenReady ∧
    refusalOf (exec (.begin .internal .ssd1306) (dead cfgA)) = some .afterFailedBegin ∧
    refusalOf (exec .scrstop (dead cfgA)) = some .afterFailedBegin := by decide
/-- V14.8: the encoding is looked at first. -/
theorem test_reserved_first : refusalOf (step (given (dead cfgA) 0xFF000000000000000000)) =
    some .reservedEncoding := by decide

/-! ### Witnesses: the hypotheses of every obligation are met -/

theorem freshA_admits : Admits freshA := ⟨rfl, rfl⟩

theorem session_inv : session.Inv where
  fbCanonical := rfl
  fbBounded := rfl
  readyUsable _ := by decide
  failedUnusable h := by cases h
  uninitializedSilent h := by cases h
  readyInit _ := ⟨[], (List.append_nil _).symm⟩
  readyContrast _ := ⟨rfl, rfl⟩

/-- The host presents CLEAR to a running session. -/
theorem session_given_inv : (given session 0x02000000000000000000).Inv where
  fbCanonical := rfl
  fbBounded := rfl
  readyUsable _ := by decide
  failedUnusable h := by cases h
  uninitializedSilent h := by cases h
  readyInit _ := ⟨[], (List.append_nil _).symm⟩
  readyContrast _ := ⟨rfl, rfl⟩

/-- The extremes every encoding admits. -/
theorem witness_DecodeEncode : (Instr.xferrgn (-32768) 32767 (-1) 0).wellFormed = true ∧
    (Instr.blit 65535 0 65535 1 true false).wellFormed = true := by decide
theorem witness_EncodeDecode : decode 0x3A0000FF00FE00000000 = .ok (.scrdr 255 254) :=
  test_decode_scrdr
theorem witness_DecodeFollowsTheTable :
    decode 0x10020000000000000000 = .ok (.setpix 0 0 .invert) ∧
      ∃ r ∈ opcodeTable, r.selects 0x10020000000000000000 = true ∧ r.colored = true := ⟨rfl, by decide⟩
theorem witness_RowsAreDisjoint : ∃ r ∈ opcodeTable, r.selects 0x3F000000000000000000 = true := by
  decide
/-- Both sides of the equivalence occur. -/
theorem witness_ReservedWordsRefused :
    (∀ r ∈ opcodeTable, r.selects 0x12030000000000050000 = false) ∧
    (given freshA 0x12030000000000050000).host = [.command 0x12030000000000050000 []] ∧
    ∃ t, step (given freshA 0x12020000000000050000) = .next t := ⟨by decide, rfl, _, rfl⟩
theorem witness_StepRunsTheDecodedOperation :
    (given freshA 0x02000000000000000000).host = [.command 0x02000000000000000000 []] ∧
    decode 0x02000000000000000000 = .ok .clear ∧
    ∃ t, step (given freshA 0x02000000000000000000) = .next t := ⟨rfl, rfl, _, rfl⟩
theorem witness_PlacedWordRunsNext :
    decodeTableWord 80 0x10010003000A00000000 = some (.setpix 3 10 .on) ∧
    ∃ t, step (freshA.withFetchWord 80 0x10010003000A00000000) = .next t := ⟨rfl, _, rfl⟩
theorem witness_IdleAndReset : freshA.host = [] ∧
    ({ freshA with host := [.reset 72 40 8] } : State).host = .reset 72 40 8 :: [] := ⟨rfl, rfl⟩
theorem witness_StepKeepsTheInvariant : (given session 0x02000000000000000000).Inv ∧
    ∃ t, step (given session 0x02000000000000000000) = .next t := ⟨session_given_inv, _, rfl⟩
theorem witness_RunKeepsTheInvariant : (given session 0x02000000000000000000).Inv ∧
    ∃ t, Sys2Proof.core.run 2 (given session 0x02000000000000000000) = .next t :=
  ⟨session_given_inv, _, rfl⟩

/-- One state for each clause: reserved word, failed, not begun, begun twice, illegal zoom, no room. -/
theorem witness_AdmissionOrder :
    (∃ e, decode 0xFF000000000000000000 = .error e) ∧
    (decode 0x02000000000000000000 = .ok .clear ∧
      decode 0x01000000000000000000 = .ok (.begin .internal .ssd1306)) ∧
    (dead cfgA).failed = true ∧
    ((waiting cfgA).failed = false ∧ (waiting cfgA).phase = .uninitialized ∧ isBegin .clear = false) ∧
    (freshA.failed = false ∧ freshA.phase = .ready ∧ isBegin (.begin .internal .ssd1306) = true) ∧
    ¬ validCfg (panel 128 64 3) ∧ ({ cfgA with fbCapacity := 255 } : Config).fbCapacity <
      fbSizeOf cfgA := by
  refine ⟨⟨_, rfl⟩, ⟨rfl, rfl⟩, rfl, ⟨rfl, rfl, rfl⟩, ⟨rfl, rfl, rfl⟩, ?_, by decide⟩
  unfold validCfg legalZoom
  decide

/-- Both failures and the success, at the boundary of the capacity. -/
theorem witness_BeginOutcomes :
    (dead cfgA).failed = true ∧ freshA.phase = .ready ∧
    ((waiting cfgA).failed = false ∧ (waiting cfgA).phase = .uninitialized) ∧
    ¬ validCfg (panel 0 64 2) ∧ 255 < fbSizeOf cfgA ∧
    validCfg cfgA ∧ fbSizeOf cfgA ≤ cfgA.fbCapacity := by
  unfold validCfg legalZoom
  decide

/-- The smallest and the largest panel, and V13.11's. -/
theorem witness_GeometryOfValidConfigurations :
    validCfg (panel 1 1 1) ∧ validCfg (panel 255 255 1) ∧ validCfg (panel 72 40 8) := by
  unfold validCfg legalZoom
  decide

/-- The far corner of the surface at each rotation, and the pixel past it. -/
theorem witness_PackIsTheMapping :
    onSurface cfgA .deg0 63 31 ∧ onSurface cfgA .deg90 31 63 ∧ onSurface cfgA .deg180 63 31 ∧
      onSurface cfgA .deg270 31 63 ∧ ¬ onSurface cfgA .deg0 64 31 := by
  unfold onSurface
  decide

theorem witness_IndicesStayInside : pack cfgA .deg0 63 31 = some ⟨255, 7⟩ ∧ validCfg cfgA ∧
    7 < physPages cfgA ∧ 127 < cfgA.physW.toNat := by
  unfold validCfg legalZoom
  decide

theorem witness_SetrotSetsRotOnly : Admits freshA := freshA_admits
theorem witness_SetpixPaintsOnePixel : Admits freshA ∧ freshA.fb.wf = true := ⟨freshA_admits, rfl⟩
theorem witness_GetpixReturnsThePixel : Admits freshA ∧ pack cfgA .deg0 63 31 = some ⟨255, 7⟩ ∧
    pack cfgA .deg0 64 0 = none := ⟨freshA_admits, by decide, by decide⟩
/-- The last pixel of the run, and a run with no pixel. -/
theorem witness_HrunPaintsTheRun : Admits freshA ∧ freshA.fb.wf = true ∧
    (((3 : Nat) : Int) < 4 ∧ pack cfgA .deg0 (60 + ((3 : Nat) : Int)) 0 = some ⟨63, 0⟩) ∧
    ∀ k : Nat, (k : Int) < 0 → pack cfgA .deg0 (60 + k) 0 ≠ some ⟨63, 0⟩ :=
  ⟨freshA_admits, rfl, by decide, fun k hk => by omega⟩
theorem witness_VrunPaintsTheRun : Admits freshA ∧ freshA.fb.wf = true ∧
    (((3 : Nat) : Int) < 4 ∧ pack cfgA .deg0 0 (28 + ((3 : Nat) : Int)) = some ⟨192, 7⟩) ∧
    ∀ k : Nat, (k : Int) < 0 → pack cfgA .deg0 0 (28 + k) ≠ some ⟨192, 7⟩ :=
  ⟨freshA_admits, rfl, by decide, fun k hk => by omega⟩
/-- The last column and row. -/
theorem witness_HrunClipsAtTheRightEdge : Admits freshA ∧ freshA.fb.wf = true ∧ freshA.rot = .deg0 ∧
    63 < logicalWidth cfgA ∧ 31 < logicalHeight cfgA := ⟨freshA_admits, rfl, rfl, by decide, by decide⟩
/-- A run over two pages to the last row, and a run of one pixel in the last column. -/
theorem witness_RunsAgreeWithTheirByteForm : Memory.wf [] = true ∧
    (23 ≤ 31 ∧ 31 < logicalHeight cfgA ∧ 63 < logicalWidth cfgA) ∧
    (63 ≤ 63 ∧ 63 < logicalWidth cfgA ∧ 31 < logicalHeight cfgA) := by decide
theorem witness_ClearZeroesEverything : Admits freshA := freshA_admits
theorem witness_PixelLaws : Admits freshA ∧ freshA.fb.wf = true ∧ onSurface cfgA .deg0 63 31 ∧
    ¬ onSurface cfgA .deg0 63 32 := by
  refine ⟨freshA_admits, rfl, ?_⟩
  unfold onSurface
  decide
/-- PHYS 72 by 40 at zoom 8: LH is 5, bit 5 of the last byte is padding; both clauses. -/
theorem witness_PaddingBitsOnlyCleared : (fresh (panel 72 40 8)).fb.wf = true ∧
    8 < logicalWidth (panel 72 40 8) ∧ logicalHeight (panel 72 40 8) ≤ 8 * 0 + 5 ∧
    (paints (.vrun 8 0 5 .on) = true ∧ ∃ t, exec (.vrun 8 0 5 .on) (fresh (panel 72 40 8)) = .next t) ∧
    ∃ t, exec .clear (fresh (panel 72 40 8)) = .next t :=
  ⟨rfl, by decide, by decide, ⟨rfl, _, rfl⟩, _, rfl⟩

/-- The last part of a byte at each zoom. -/
theorem witness_ExpandReplicatesRows : (legalZoom 1 ∧ 0 < 1) ∧ (legalZoom 2 ∧ 1 < 2) ∧
    (legalZoom 4 ∧ 3 < 4) ∧ (legalZoom 8 ∧ 7 < 8) := by
  unfold legalZoom
  decide
theorem witness_SamplingRoundTrip : legalZoom 8 ∧
    ∀ k j, k < 8 → j < 8 →
      (fun i => (expand 8 (i / 8) 0xA5).getLsbD (i % 8)) (8 * k + j) = (expand 8 k 0xA5).getLsbD j := by
  refine ⟨.inr (.inr (.inr rfl)), fun k j _ hj => ?_⟩
  have page : (8 * k + j) / 8 = k := by omega
  have bit : (8 * k + j) % 8 = j := by omega
  simp only [page, bit]
theorem witness_PhysByteShowsTheZoomedPixel : validCfg cfgA ∧ 7 < 8 := by
  unfold validCfg legalZoom
  decide
/-- The last page and column, and one of the empty cases. -/
theorem witness_BlitSendsTheExpandedBitmap : Admits freshA ∧
    (127 < cfgA.physW.toNat ∧ 63 / 8 < physPages cfgA ∧ 0 < cfgA.zoom.toNat) ∧
    cfgA.physW.toNat ≤ 128 := ⟨freshA_admits, by decide, by decide⟩
/-- Two bitmaps that differ beyond the two bytes BLIT looks at. -/
theorem witness_BlitReadsOnlyItsBitmap : validCfg cfgA ∧
    Admits { freshA with bmp := [1, 2, 3] } ∧ ({ freshA with bmp := [1, 2, 3] } : State).cfg = cfgA ∧
    (∀ i, i < (8 + 7) / 8 * 2 → readBitmap { freshA with bmp := [1, 2, 3] } i =
      readBitmap { freshA with bmp := [1, 2, 4] } i) ∧
    ∃ t, exec (.blit 4 8 2 8 false false) { freshA with bmp := [1, 2, 4] } = .next t := by
  refine ⟨?_, ⟨rfl, rfl⟩, rfl, fun i hi => ?_, _, rfl⟩
  · unfold validCfg legalZoom
    decide
  · obtain rfl | rfl : i = 0 ∨ i = 1 := by omega
    · rfl
    · rfl
theorem witness_OppositeBlitsAreComplements : validCfg cfgA ∧ Admits freshA ∧
    ∀ i, readBitmap freshA i = readBitmap freshA i := by
  refine ⟨?_, freshA_admits, fun _ => rfl⟩
  unfold validCfg legalZoom
  decide

theorem witness_TransfersSendOneStream : Admits freshA ∧ region cfgA 127 63 1 1 = some ⟨7, 7, 127, 127⟩ ∧
    region cfgA 128 0 4 4 = none := ⟨freshA_admits, by decide, by decide⟩
theorem witness_XferfullIsTheWholeRegion : validCfg cfgA := by
  unfold validCfg legalZoom
  decide
/-- A clipped rectangle, its last column and page, and an empty one. -/
theorem witness_RegionIsTheClippedRectangle :
    region cfgA 120 60 20 20 = some ⟨7, 7, 120, 127⟩ ∧ region cfgA 0 64 4 4 = none := by decide
/-- The three kinds of window, the first at its largest. -/
theorem witness_WindowParametersFit : fullWindow (panel 255 255 1) = ⟨0, 31, 0, 254⟩ ∧
    region cfgA 127 63 1 1 = some ⟨7, 7, 127, 127⟩ ∧
    blitWindow cfgA 126 56 2 8 = some ⟨7, 7, 126, 127⟩ := by decide
theorem witness_WindowCommandsByVariant : cfgA.shPerPage = false ∧
    ({ cfgA with shPerPage := true } : Config).shPerPage = true := ⟨rfl, rfl⟩
/-- A window of two pages and one column, with a page prefix to index. -/
theorem witness_StreamIsTheRaster : (1 ≤ 2 ∧ 5 ≤ 5) ∧
    2 < (pagePrefix { cfgA with shPerPage := true } .sh1106 1 5).length := by decide
theorem witness_XferfullByteCounts : validCfg cfgA ∧ Admits freshA := by
  refine ⟨?_, freshA_admits⟩
  unfold validCfg legalZoom
  decide
theorem witness_FirstPixelIsATwoByTwoBlock : Admits freshA ∧ freshA.rot = .deg0 ∧
    freshA.cfg.physW = 128 ∧ freshA.cfg.physH = 64 ∧ freshA.cfg.zoom = 2 :=
  ⟨freshA_admits, rfl, rfl, rfl, rfl⟩

theorem witness_SetinvSendsItsChoice : Admits freshA := freshA_admits
theorem witness_SetdimSendsTheContrast : Admits freshA := freshA_admits
theorem witness_ScrollStartsSendTheirSequence : Admits freshA := freshA_admits
theorem witness_ScrstopAlwaysSends : Admits freshA := freshA_admits

/-- BEGIN takes a waiting block to Ready; a reset takes a running one back. -/
theorem witness_PhaseMovesOnlyByBeginAndReset :
    (∃ t, step (given (waiting cfgA) 0x01000000000000000000) = .next t ∧ t.phase = .ready ∧
      t.res = true) ∧
    nextIs (given (waiting cfgA) 0x01000000000000000000) (.begin .internal .ssd1306) ∧
    ∃ t, step { freshA with host := [.reset 128 64 2] } = .next t ∧ t.phase = .uninitialized :=
  ⟨⟨_, rfl, rfl, rfl⟩, ⟨_, _, _, rfl, rfl⟩, _, rfl, rfl⟩
/-- BEGIN fails at zoom 3; a reset clears FAILED. -/
theorem witness_FailedIsSticky :
    (∃ t, step (given (waiting (panel 128 64 3)) 0x01000000000000000000) = .next t ∧
      t.failed = true) ∧
    (∃ t, step { dead cfgA with host := [.reset 128 64 2] } = .next t ∧ t.failed = false) ∧
    (dead cfgA).failed = true := ⟨⟨_, rfl, rfl⟩, ⟨_, rfl, rfl⟩, rfl⟩
/-- One operation that is on no list, and BEGIN, which is on most. -/
theorem witness_WritersAreTheListed :
    (∃ t, exec (.getpix 0 0) freshA = .next t) ∧ isBegin (.getpix 0 0) = false ∧
    writesScrolling (.getpix 0 0) = false ∧ writesRot (.getpix 0 0) = false ∧
    writesContrast (.getpix 0 0) = false ∧ writesInvert (.getpix 0 0) = false ∧
    writesFb (.getpix 0 0) = false ∧ sends (.getpix 0 0) = false ∧
    ∃ t, exec (.begin .internal .ssd1306) (waiting cfgA) = .next t :=
  ⟨⟨_, rfl⟩, rfl, rfl, rfl, rfl, rfl, rfl, rfl, _, rfl⟩
theorem witness_ReadersAreTheListed : (∃ t, exec (.setinv true) freshA = .next t) ∧
    readsRot (.setinv true) = false ∧ readsVariant (.setinv true) = false ∧
    readsNormcon (.setinv true) = false ∧ readsFb (.setinv true) = false :=
  ⟨⟨_, rfl⟩, rfl, rfl, rfl, rfl⟩
theorem witness_BeliefsAreNotRead : ∃ t, exec (.setdim false) freshA = .next t := ⟨_, rfl⟩
theorem witness_DataBytesIgnoreTheVariant : readsVariant .xferfull = true ∧
    ∃ t, exec .xferfull freshA = .next t := ⟨rfl, _, rfl⟩
theorem witness_TxIsAppendOnly : (∃ t, step (given freshA 0x20000000000000000000) = .next t) ∧
    ∃ t, exec .xferfull freshA = .next t := ⟨⟨_, rfl⟩, _, rfl⟩
/-- BEGIN, GETPIX inside the surface, and an operation that is neither. -/
theorem witness_ResIsMeaningfulForTwo :
    (∃ t, exec (.begin .internal .ssd1306) (waiting cfgA) = .next t) ∧
    (∃ t, exec (.getpix 63 31) freshA = .next t) ∧ pack cfgA .deg0 63 31 = some ⟨255, 7⟩ ∧
    ∃ t, exec .clear freshA = .next t := ⟨⟨_, rfl⟩, ⟨_, rfl⟩, by decide, _, rfl⟩
theorem witness_I2cPrefixesDetermineTx : cfgA.transport = .i2c ∧
    wireAdmits cfgA [.command 0xAE, .data 0x01, .data 0x02]
      [⟨none, [0x00, 0xAE]⟩, ⟨none, [0x40, 0x01, 0x02]⟩] :=
  ⟨rfl, [⟨false, [0xAE]⟩, ⟨true, [0x01, 0x02]⟩], by decide, rfl⟩

end Sys2Proof.Tests
end

section
/-! PROOF. The geometry a valid configuration gives (spec/00_scope.md R8, R9). The bounds that rest on
the 8-bit panel sizes alone hold in every configuration; divisibility and positivity need VALIDCFG. -/

namespace Sys2Proof.Machine

open Sys2Proof.Claims

theorem le_eight_mul_ceilDiv8 (n : Nat) : n ≤ 8 * ceilDiv8 n := by
  unfold ceilDiv8
  omega

theorem ceilDiv8_mono {m n : Nat} (h : m ≤ n) : ceilDiv8 m ≤ ceilDiv8 n :=
  Nat.div_le_div_right (Nat.add_le_add_right h 7)

theorem physWidth_le (c : Config) : physWidth c ≤ 255 := Nat.le_of_lt_succ c.physW.isLt

theorem physHeight_le (c : Config) : physHeight c ≤ 255 := Nat.le_of_lt_succ c.physH.isLt

theorem logicalWidth_le_physWidth (c : Config) : logicalWidth c ≤ physWidth c := Nat.div_le_self _ _

theorem logicalHeight_le_physHeight (c : Config) : logicalHeight c ≤ physHeight c :=
  Nat.div_le_self _ _

theorem logicalHeight_le_eight_mul_logicalPages (c : Config) :
    logicalHeight c ≤ 8 * logicalPages c := le_eight_mul_ceilDiv8 _

theorem logicalPages_le_physPages (c : Config) : logicalPages c ≤ physPages c :=
  ceilDiv8_mono (logicalHeight_le_physHeight c)

theorem physPages_le (c : Config) : physPages c ≤ 32 := ceilDiv8_mono (physHeight_le c)

/-- R9's remark: no strap setting needs more framebuffer than ZOOM 1 on a 255 by 255 panel. -/
theorem fbSize_le (c : Config) : fbSize c ≤ 8160 :=
  calc fbSize c = logicalPages c * logicalWidth c := rfl
    _ ≤ 32 * 255 := Nat.mul_le_mul ((logicalPages_le_physPages c).trans (physPages_le c))
        ((logicalWidth_le_physWidth c).trans (physWidth_le c))

theorem fbSize_eq_fbSizeOf (c : Config) : fbSize c = fbSizeOf c := rfl

theorem logicalWidth_mul_zoomFactor {c : Config} (h : validCfg c) :
    logicalWidth c * zoomFactor c = physWidth c := by
  obtain ⟨-, -, -, hmod, -⟩ := h
  exact Nat.div_mul_cancel (Nat.dvd_of_mod_eq_zero hmod)

theorem logicalHeight_mul_zoomFactor {c : Config} (h : validCfg c) :
    logicalHeight c * zoomFactor c = physHeight c := by
  obtain ⟨-, -, -, -, hmod⟩ := h
  exact Nat.div_mul_cancel (Nat.dvd_of_mod_eq_zero hmod)

/-- A logical width of 0 would make the panel 0 pixels wide. -/
theorem logicalWidth_pos {c : Config} (h : validCfg c) : 0 < logicalWidth c := by
  have hmul := logicalWidth_mul_zoomFactor h
  obtain ⟨-, hpos, -⟩ := h
  exact Nat.pos_of_mul_pos_right (hpos.trans_eq hmul.symm)

/-- A logical height of 0 would make the panel 0 pixels high. -/
theorem logicalHeight_pos {c : Config} (h : validCfg c) : 0 < logicalHeight c := by
  have hmul := logicalHeight_mul_zoomFactor h
  obtain ⟨-, -, hpos, -⟩ := h
  exact Nat.pos_of_mul_pos_right (hpos.trans_eq hmul.symm)

/-- Settles O17: VALIDCFG gives the exact divisions and with them the positive sizes; the bounds come
from the 8-bit panel sizes. -/
theorem geometryOfValidConfigurations : Obligations.GeometryOfValidConfigurations :=
  fun c h => ⟨logicalWidth_mul_zoomFactor h, logicalHeight_mul_zoomFactor h, logicalWidth_pos h,
    logicalHeight_pos h, fbSize_eq_fbSizeOf c, fbSize_le c,
    logicalHeight_le_eight_mul_logicalPages c, physPages_le c⟩

end Sys2Proof.Machine
end

section
/-! PROOF. Every operation in one form: the reason that refuses it and the effect it has where nothing does.
Proofs about all operations cite `exec_eq`, `exec_next_iff` and the lemmas about `effect`; none of them
unfolds `exec`. -/

namespace Sys2Proof.Machine

open Sys2Proof.Claims

/-- Why an operation is refused in a state, if it is (R234, R235, R237). -/
def refuses (i : Instr) (s : State) : Option Refusal :=
  if isBegin i then refusesBegin s else refusesOperation s

/-- What an operation that is not refused makes of the state. -/
def effect (i : Instr) (s : State) : State :=
  match i with
  | .begin vcc variant => if configUsable s.cfg then s.startUp vcc variant else s.failBegin
  | .clear => (s.withFb zeroMemory).withRes false
  | .setrot rot => (s.withRot rot).withRes false
  | .setpix x y color => (s.withFb (paintPixel s.cfg s.rot color s.fb x y)).withRes false
  | .getpix x y => s.withRes (pixelAt s x y)
  | .hrun x y len color => (s.withFb (paintRow s.cfg s.rot color s.fb x y len)).withRes false
  | .vrun x y len color => (s.withFb (paintColumn s.cfg s.rot color s.fb x y len)).withRes false
  | .xferfull =>
    (s.send (stream s.cfg s.variant (fullWindow s.cfg) (physByte s.cfg s.fb))).withRes false
  | .xferrgn x y w h => (s.send (regionBytes s x y w h)).withRes false
  | .blit px py bw bh mirror invert =>
    (s.send (blitBytes s px py bw bh mirror invert)).withRes false
  | .setinv enable =>
    ((s.send [.command (if enable then s.cfg.cmdInvertDisplay else s.cfg.cmdNormalDisplay)]).withInvert
      enable).withRes false
  | .setdim enable =>
    ((s.send [.command s.cfg.cmdSetContrast, .command (dimValue s enable)]).withContrast
      (dimValue s enable) enable).withRes false
  | .scrr start stop => startScroll .right start stop s
  | .scrl start stop => startScroll .left start stop s
  | .scrdr start stop => startScroll .diagRight start stop s
  | .scrdl start stop => startScroll .diagLeft start stop s
  | .scrstop => ((s.send [.command s.cfg.cmdDeactivateScroll]).withScrolling false).withRes false

/-- `exec`, once for all operations. -/
theorem exec_eq (i : Instr) (s : State) : exec i s = unlessRefused (refuses i s) (effect i s) := by
  cases i <;> rfl

theorem unlessRefused_next_iff {reason : Option Refusal} {t u : State} :
    unlessRefused reason t = .next u ↔ reason = none ∧ u = t := by
  cases reason <;> simp [unlessRefused, eq_comm]

theorem exec_next_iff {i : Instr} {s t : State} :
    exec i s = .next t ↔ refuses i s = none ∧ t = effect i s := by
  rw [exec_eq, unlessRefused_next_iff]

theorem refuses_begin_none_iff {vcc : Vcc} {variant : Variant} {s : State} :
    refuses (.begin vcc variant) s = none ↔ s.phase = .uninitialized ∧ s.failed = false :=
  refusesBegin_none_iff s

theorem refuses_none_iff_admits {i : Instr} (hi : isBegin i = false) {s : State} :
    refuses i s = none ↔ Admits s := by
  simpa [refuses, hi] using refusesOperation_none_iff s

theorem refuses_of_failed (i : Instr) {s : State} (h : s.failed = true) :
    refuses i s = some .afterFailedBegin := by
  simp [refuses, refusesBegin, refusesOperation, h]

/-- PHASE and FAILED alone decide admission. -/
theorem refuses_congr (i : Instr) {s s' : State} (hp : s'.phase = s.phase)
    (hf : s'.failed = s.failed) : refuses i s' = refuses i s := by
  simp only [refuses, refusesBegin, refusesOperation, hp, hf]

/-- What completes in one state completes in every state with the same PHASE and FAILED. -/
theorem exec_next_congr {i : Instr} {s s' t : State} (h : exec i s = .next t)
    (hp : s'.phase = s.phase) (hf : s'.failed = s.failed) : exec i s' = .next (effect i s') :=
  exec_next_iff.2 ⟨(refuses_congr i hp hf).trans (exec_next_iff.1 h).1, rfl⟩

/-- BEGIN has one of two effects, by its check of the configuration (R160). -/
theorem effect_begin_cases (vcc : Vcc) (variant : Variant) (s : State) :
    (configUsable s.cfg = true ∧ effect (.begin vcc variant) s = s.startUp vcc variant) ∨
    (configUsable s.cfg = false ∧ effect (.begin vcc variant) s = s.failBegin) := by
  cases h : configUsable s.cfg <;> simp [effect, h]

end Sys2Proof.Machine
end

section
/-! PROOF. What an operation leaves alone (spec/10_state.md R20, "written by"), field by field, and what it
appends to TX. -/

namespace Sys2Proof.Machine

open Sys2Proof.Claims

/-- No operation writes the configuration, the bitmap, the host's events or the counter. -/
theorem effect_environment (i : Instr) (s : State) :
    (effect i s).cfg = s.cfg ∧ (effect i s).bmp = s.bmp ∧ (effect i s).host = s.host ∧
      (effect i s).epoch = s.epoch := by
  cases i with
  | begin vcc variant =>
    obtain ⟨-, h⟩ | ⟨-, h⟩ := effect_begin_cases vcc variant s <;> rw [h] <;>
      exact ⟨rfl, rfl, rfl, rfl⟩
  | _ => exact ⟨rfl, rfl, rfl, rfl⟩

/-- The session values only BEGIN writes (R23, R24, R27 to R29). -/
theorem effect_session {i : Instr} (hi : isBegin i = false) (s : State) :
    (effect i s).phase = s.phase ∧ (effect i s).failed = s.failed ∧
      (effect i s).variant = s.variant ∧ (effect i s).vcc = s.vcc ∧
      (effect i s).normcon = s.normcon := by
  cases i with
  | begin => cases hi
  | _ => exact ⟨rfl, rfl, rfl, rfl, rfl⟩

theorem effect_scrolling {i : Instr} (hi : writesScrolling i = false) (s : State) :
    (effect i s).scrolling = s.scrolling := by
  cases i with
  | begin | scrr | scrl | scrdr | scrdl | scrstop => cases hi
  | _ => rfl

theorem effect_rot {i : Instr} (hi : writesRot i = false) (s : State) :
    (effect i s).rot = s.rot := by
  cases i with
  | begin vcc variant => obtain ⟨-, h⟩ | ⟨-, h⟩ := effect_begin_cases vcc variant s <;> rw [h] <;> rfl
  | setrot => cases hi
  | _ => rfl

theorem effect_contrast_dim {i : Instr} (hi : writesContrast i = false) (s : State) :
    (effect i s).contrast = s.contrast ∧ (effect i s).dim = s.dim := by
  cases i with
  | begin | setdim => cases hi
  | _ => exact ⟨rfl, rfl⟩

theorem effect_invert {i : Instr} (hi : writesInvert i = false) (s : State) :
    (effect i s).invert = s.invert := by
  cases i with
  | begin | setinv => cases hi
  | _ => rfl

theorem effect_fb {i : Instr} (hi : writesFb i = false) (s : State) :
    (effect i s).fb = s.fb := by
  cases i with
  | begin vcc variant => obtain ⟨-, h⟩ | ⟨-, h⟩ := effect_begin_cases vcc variant s <;> rw [h] <;> rfl
  | setpix | hrun | vrun | clear => cases hi
  | _ => rfl

/-- What an operation that is not refused appends to TX. -/
def sentBytes (i : Instr) (s : State) : List TxByte :=
  match i with
  | .begin vcc variant =>
    if configUsable s.cfg then asCommands (Config.initSeq s.cfg.physW s.cfg.physH vcc variant) else []
  | .clear | .setrot _ | .setpix _ _ _ | .getpix _ _ | .hrun _ _ _ _ | .vrun _ _ _ _ => []
  | .xferfull => stream s.cfg s.variant (fullWindow s.cfg) (physByte s.cfg s.fb)
  | .xferrgn x y w h => regionBytes s x y w h
  | .blit px py bw bh mirror invert => blitBytes s px py bw bh mirror invert
  | .setinv enable =>
    [.command (if enable then s.cfg.cmdInvertDisplay else s.cfg.cmdNormalDisplay)]
  | .setdim enable => [.command s.cfg.cmdSetContrast, .command (dimValue s enable)]
  | .scrr start stop => asCommands (scrollSeq s.cfg .right start stop)
  | .scrl start stop => asCommands (scrollSeq s.cfg .left start stop)
  | .scrdr start stop => asCommands (scrollSeq s.cfg .diagRight start stop)
  | .scrdl start stop => asCommands (scrollSeq s.cfg .diagLeft start stop)
  | .scrstop => [.command s.cfg.cmdDeactivateScroll]

theorem sentBytes_of_not_sends {i : Instr} (hi : sends i = false) (s : State) : sentBytes i s = [] := by
  cases i with
  | clear | setrot | setpix | getpix | hrun | vrun => rfl
  | _ => cases hi

/-- Whatever TX held, an operation appends the same bytes and does the same to all other state (R35). -/
theorem effect_with_tx (i : Instr) (s : State) (l : List TxByte) :
    effect i { s with tx := l } = { effect i s with tx := l ++ sentBytes i s } := by
  cases i with
  | begin =>
    cases h : configUsable s.cfg with
    | true => simp only [effect, sentBytes, h]; rfl
    | false => simp only [effect, sentBytes, h, List.append_nil, Bool.false_eq_true, if_false]; rfl
  | clear | setrot | setpix | getpix | hrun | vrun =>
    rw [sentBytes_of_not_sends rfl, List.append_nil]
    rfl
  | _ => rfl

theorem effect_tx (i : Instr) (s : State) : (effect i s).tx = s.tx ++ sentBytes i s :=
  congrArg State.tx (effect_with_tx i s s.tx)

end Sys2Proof.Machine
end

section
/-! PROOF. What an operation does not read (spec/10_state.md R20, "read by"; R25, R28, R30 to R32): its
effect on all other state is the same whatever that piece of state holds. BEGIN is proved by its check. -/

namespace Sys2Proof.Machine

open Sys2Proof.Claims

theorem effect_ignores_rot {i : Instr} (hi : readsRot i = false) (s : State) (rot : Rot) :
    { effect i { s with rot := rot } with rot := (effect i s).rot } = effect i s := by
  cases i with
  | begin => cases h : configUsable s.cfg <;> simp only [effect, h] <;> rfl
  | setpix | getpix | hrun | vrun => cases hi
  | _ => rfl

theorem effect_ignores_variant {i : Instr} (hi : readsVariant i = false) (s : State)
    (variant : Variant) :
    { effect i { s with variant := variant } with variant := (effect i s).variant } = effect i s := by
  cases i with
  | begin => cases h : configUsable s.cfg <;> simp only [effect, h] <;> rfl
  | xferfull | xferrgn | blit => cases hi
  | _ => rfl

theorem effect_ignores_normcon {i : Instr} (hi : readsNormcon i = false) (s : State) (v : Byte) :
    { effect i { s with normcon := v } with normcon := (effect i s).normcon } = effect i s := by
  cases i with
  | begin => cases h : configUsable s.cfg <;> simp only [effect, h] <;> rfl
  | setdim => cases hi
  | _ => rfl

theorem effect_ignores_fb {i : Instr} (hi : readsFb i = false) (s : State) (m : Memory) :
    { effect i { s with fb := m } with fb := (effect i s).fb } = effect i s := by
  cases i with
  | begin => cases h : configUsable s.cfg <;> simp only [effect, h] <;> rfl
  | setpix | getpix | hrun | vrun | xferfull | xferrgn => cases hi
  | _ => rfl

/-- No operation reads what the block believes of the panel: SCROLLING, VCC, CONTRAST, INVERT, DIM. -/
theorem effect_ignores_beliefs (i : Instr) (s : State) (scrolling invert dim : Bool) (vcc : Vcc)
    (contrast : Byte) :
    { effect i { s with scrolling := scrolling, vcc := vcc, contrast := contrast,
                        invert := invert, dim := dim } with
      scrolling := (effect i s).scrolling, vcc := (effect i s).vcc,
      contrast := (effect i s).contrast, invert := (effect i s).invert,
      dim := (effect i s).dim } = effect i s := by
  cases i with
  | begin => cases h : configUsable s.cfg <;> simp only [effect, h] <;> rfl
  | _ => rfl

/-- Settles O52: each entry of the table is the frame lemma of its piece of state. -/
theorem writersAreTheListed : Obligations.WritersAreTheListed := by
  intro i s t h
  obtain ⟨-, rfl⟩ := exec_next_iff.1 h
  obtain ⟨hcfg, hbmp, hhost, hepoch⟩ := effect_environment i s
  exact ⟨hcfg, hbmp, hhost, hepoch, fun hi => effect_session hi s, fun hi => effect_scrolling hi s,
    fun hi => effect_rot hi s, fun hi => effect_contrast_dim hi s, fun hi => effect_invert hi s,
    fun hi => effect_fb hi s,
    fun hi => by rw [effect_tx, sentBytes_of_not_sends hi, List.append_nil]⟩

/-- Settles O53: the other state is admitted too, and there the operation has the same effect. -/
theorem readersAreTheListed : Obligations.ReadersAreTheListed := by
  intro i s t h
  obtain ⟨-, rfl⟩ := exec_next_iff.1 h
  exact ⟨
    fun hi rot => ⟨_, exec_next_congr h rfl rfl, effect_ignores_rot hi s rot⟩,
    fun hi variant => ⟨_, exec_next_congr h rfl rfl, effect_ignores_variant hi s variant⟩,
    fun hi v => ⟨_, exec_next_congr h rfl rfl, effect_ignores_normcon hi s v⟩,
    fun hi m => ⟨_, exec_next_congr h rfl rfl, effect_ignores_fb hi s m⟩⟩

/-- Settles O54, as O53 for the five beliefs at once. -/
theorem beliefsAreNotRead : Obligations.BeliefsAreNotRead := by
  intro i s t scrolling invert dim vcc contrast h
  obtain ⟨-, rfl⟩ := exec_next_iff.1 h
  exact ⟨_, exec_next_congr h rfl rfl, effect_ignores_beliefs i s scrolling invert dim vcc contrast⟩

end Sys2Proof.Machine
end

section
/-! PROOF. The invariant: it holds after reset, and every update an operation makes keeps it, so every
step and every run does (spec/10_state.md R24, R29, R30, R33; spec/42_transfer_sequencer.md R160;
spec/70_reset_and_hazards.md R264). -/

namespace Sys2Proof.Machine

open Sys2Proof.Claims

theorem State.resetWith_inv (c : Config) (n : Nat) : (State.resetWith c n).Inv where
  fbCanonical := imageFrom_wf _ _
  fbBounded := by simpa using below_imageFrom (Config.fbPowerOn n) 0 (fbBytes c)
  readyUsable h := nomatch h
  failedUnusable h := nomatch h
  uninitializedSilent _ := ⟨rfl, rfl, rfl⟩
  readyInit h := nomatch h
  readyContrast h := nomatch h

namespace State.Inv

variable {s : State}

/-! ### Updates the invariant does not look at -/

theorem withRes (h : s.Inv) (r : Bool) : (s.withRes r).Inv := { h with }

theorem withInvert (h : s.Inv) (enable : Bool) : (s.withInvert enable).Inv := { h with }

theorem withHost (h : s.Inv) (rest : List HostEvent) : State.Inv { s with host := rest } := { h with }

theorem present (h : s.Inv) (bmp : List Byte) (rest : List HostEvent) : (s.present bmp rest).Inv :=
  { h with }

/-! ### Updates of a Ready state -/

theorem withRot (h : s.Inv) (hr : s.phase = .ready) (rot : Rot) : (s.withRot rot).Inv :=
  { h with uninitializedSilent := fun hu => nomatch hr.symm.trans hu }

theorem withScrolling (h : s.Inv) (hr : s.phase = .ready) (b : Bool) : (s.withScrolling b).Inv :=
  { h with uninitializedSilent := fun hu => nomatch hr.symm.trans hu }

/-- What is sent stands after the init sequence. -/
theorem send (h : s.Inv) (hr : s.phase = .ready) (l : List TxByte) : (s.send l).Inv where
  __ := h
  uninitializedSilent hu := nomatch hr.symm.trans hu
  readyInit _ := by
    obtain ⟨later, htx⟩ := h.readyInit hr
    exact ⟨later ++ l, by rw [State.send_tx, htx, List.append_assoc]; rfl⟩

/-- SETDIM's contrast is the one its operand records in DIM. -/
theorem withContrast_dimValue (h : s.Inv) (enable : Bool) :
    (s.withContrast (dimValue s enable) enable).Inv where
  __ := h
  readyContrast hr := ⟨(h.readyContrast hr).1, rfl⟩

theorem fbBytes_eq_fbSize (h : s.Inv) (hr : s.phase = .ready) : fbBytes s.cfg = fbSize s.cfg := by
  have hu := (h.readyUsable hr).1
  simp only [configUsable, Bool.and_eq_true] at hu
  exact if_pos hu.1

theorem fb_below_fbSize (h : s.Inv) (hr : s.phase = .ready) :
    Memory.below (fbSize s.cfg) s.fb = true := h.fbBytes_eq_fbSize hr ▸ h.fbBounded

theorem withFb (h : s.Inv) (hr : s.phase = .ready) {m : Memory} (hwf : m.wf = true)
    (hb : Memory.below (fbSize s.cfg) m = true) : (s.withFb m).Inv where
  __ := h
  fbCanonical := hwf
  fbBounded := (h.fbBytes_eq_fbSize hr).symm ▸ hb

theorem startScroll (h : s.Inv) (hr : s.phase = .ready) (kind : ScrollKind) (start stop : Byte) :
    (startScroll kind start stop s).Inv :=
  ((h.send hr _).withScrolling hr true).withRes false

/-! ### BEGIN -/

/-- A successful BEGIN puts the init sequence first: nothing was sent before it. -/
theorem startUp (h : s.Inv) (hp : s.phase = .uninitialized) (hf : s.failed = false)
    (hu : configUsable s.cfg = true) (vcc : Vcc) (variant : Variant) :
    (s.startUp vcc variant).Inv where
  __ := h
  readyUsable _ := ⟨hu, hf⟩
  uninitializedSilent hc := nomatch hc
  readyInit _ := by
    obtain ⟨htx, -, -⟩ := h.uninitializedSilent hp
    exact ⟨[], by simp [State.startUp, htx]⟩
  readyContrast _ := ⟨rfl, rfl⟩

theorem failBegin (h : s.Inv) (hp : s.phase = .uninitialized) (hu : configUsable s.cfg = false) :
    s.failBegin.Inv where
  __ := h
  readyUsable hr := nomatch hp.symm.trans hr
  failedUnusable _ := hu

/-! ### Operations, steps and runs -/

theorem effect_of_ready (h : s.Inv) (hr : s.phase = .ready) {i : Instr} (hi : isBegin i = false) :
    (effect i s).Inv := by
  have hwf := h.fbCanonical
  have hb := h.fb_below_fbSize hr
  cases i with
  | begin => cases hi
  | clear => exact (h.withFb hr rfl rfl).withRes false
  | setrot rot => exact (h.withRot hr rot).withRes false
  | setpix => exact (h.withFb hr (paintPixel_wf hwf ..) (paintPixel_below hb ..)).withRes false
  | getpix => exact h.withRes _
  | hrun => exact (h.withFb hr (paintRow_wf hwf ..) (paintRow_below hb ..)).withRes false
  | vrun => exact (h.withFb hr (paintColumn_wf hwf ..) (paintColumn_below hb ..)).withRes false
  | xferfull | xferrgn | blit => exact (h.send hr _).withRes false
  | setinv enable => exact ((h.send hr _).withInvert enable).withRes false
  | setdim enable => exact ((h.send hr _).withContrast_dimValue enable).withRes false
  | scrr | scrl | scrdr | scrdl => exact h.startScroll hr _ _ _
  | scrstop => exact ((h.send hr _).withScrolling hr false).withRes false

theorem exec {t : State} (h : s.Inv) {i : Instr} (he : exec i s = .next t) : t.Inv := by
  obtain ⟨hadm, rfl⟩ := exec_next_iff.1 he
  cases hi : isBegin i with
  | false =>
    obtain ⟨hr, -⟩ := (refuses_none_iff_admits hi).1 hadm
    exact h.effect_of_ready hr hi
  | true =>
    cases i with
    | begin vcc variant =>
      obtain ⟨hp, hf⟩ := refuses_begin_none_iff.1 hadm
      obtain ⟨hu, heff⟩ | ⟨hu, heff⟩ := effect_begin_cases vcc variant s
      · exact heff ▸ h.startUp hp hf hu vcc variant
      · exact heff ▸ h.failBegin hp hu
    | _ => cases hi

theorem step {t : State} (h : s.Inv) (hs : step s = .next t) : t.Inv := by
  obtain ⟨-, rfl⟩ | ⟨w, ht, z, rest, -, rfl⟩ | ⟨word, bmp, rest, i, -, -, he⟩ := step_next hs
  · exact h
  · exact (State.resetWith_inv _ _).withHost rest
  · exact (h.present bmp rest).exec he

end State.Inv

/-- What every step keeps, every run keeps. -/
theorem run_keeps {P : State → Prop} (hstep : ∀ s t, P s → step s = .next t → P t) (k : Nat) :
    ∀ s t : State, P s → core.run k s = .next t → P t := by
  induction k with
  | zero => rintro s t hs ⟨⟩; exact hs
  | succ k ih =>
    intro s t hs hrun
    simp only [Host.Core.run] at hrun
    split at hrun
    · rename_i u hu
      exact ih u t (hstep s u hs hu) hrun
    · cases hrun
    · cases hrun

/-- Settles O10: nothing has been sent, and the image of a reset is canonical and within FBSIZE. -/
theorem resetMeetsTheInvariant : Obligations.ResetMeetsTheInvariant :=
  ⟨State.resetWith_inv Config.board 0, State.resetWith_inv⟩

/-- Settles O11, by the kind of step: none, a reset, or an operation's updates one after another. -/
theorem stepKeepsTheInvariant : Obligations.StepKeepsTheInvariant := fun _ _ h => h.step

/-- Settles O12, by O11 along the run. -/
theorem runKeepsTheInvariant : Obligations.RunKeepsTheInvariant := run_keeps stepKeepsTheInvariant

end Sys2Proof.Machine
end

section
/-! PROOF. PHASE, FAILED, TX and RES over one step (spec/10_state.md R23, R24, R35, R36). Only BEGIN and a
reset move PHASE and FAILED; `step_control` says so once. -/

namespace Sys2Proof.Machine

open Sys2Proof.Claims

/-- A step on a word that decodes is that operation, at the state that presents it. -/
theorem step_command {s : State} {word : CmdWord} {bmp : List Byte} {rest : List HostEvent} {i : Instr}
    (hh : s.host = .command word bmp :: rest) (hd : decode word = .ok i) :
    step s = exec i (s.present bmp rest) := by
  simp only [step, hh, hd]

/-- What BEGIN reports when it completes (R160): success with Ready, or failure with FAILED. -/
def BeginReports (t : State) : Prop :=
  (t.res = true ∧ t.phase = .ready ∧ t.failed = false) ∨
  (t.res = false ∧ t.phase = .uninitialized ∧ t.failed = true)

theorem BeginReports.res_iff_ready {t : State} (h : BeginReports t) :
    t.res = true ↔ t.phase = .ready := by
  obtain ⟨hres, hp, -⟩ | ⟨hres, hp, -⟩ := h <;> simp [hres, hp]

theorem BeginReports.res_false_of_failed {t : State} (h : BeginReports t) (hf : t.failed = true) :
    t.res = false := by
  obtain ⟨-, -, hf'⟩ | ⟨hres, -, -⟩ := h
  · cases hf'.symm.trans hf
  · exact hres

theorem exec_begin_next {s t : State} {vcc : Vcc} {variant : Variant}
    (h : exec (.begin vcc variant) s = .next t) :
    s.phase = .uninitialized ∧ s.failed = false ∧ BeginReports t := by
  obtain ⟨hp, hf, ⟨-, rfl⟩ | ⟨-, rfl⟩⟩ := execBegin_next h
  · exact ⟨hp, hf, .inl ⟨rfl, rfl, hf⟩⟩
  · exact ⟨hp, hf, .inr ⟨rfl, hp, rfl⟩⟩

/-- What a step does to PHASE and FAILED: it is a reset, it runs a BEGIN, or it keeps both. -/
theorem step_control {s t : State} (h : step s = .next t) :
    (nextIsReset s ∧ t.phase = .uninitialized ∧ t.failed = false) ∨
    (∃ vcc variant, nextIs s (.begin vcc variant) ∧ s.phase = .uninitialized ∧ s.failed = false ∧
      BeginReports t) ∨
    (t.phase = s.phase ∧ t.failed = s.failed) := by
  obtain ⟨-, rfl⟩ | ⟨w, ht, z, rest, hh, rfl⟩ | ⟨word, bmp, rest, i, hh, hd, he⟩ := step_next h
  · exact .inr (.inr ⟨rfl, rfl⟩)
  · exact .inl ⟨⟨w, ht, z, rest, hh⟩, rfl, rfl⟩
  · cases hi : isBegin i with
    | false =>
      obtain ⟨-, rfl⟩ := exec_next_iff.1 he
      obtain ⟨hp, hf, -⟩ := effect_session hi (s.present bmp rest)
      exact .inr (.inr ⟨hp, hf⟩)
    | true =>
      cases i with
      | begin vcc variant =>
        have hb := exec_begin_next he
        exact .inr (.inl ⟨vcc, variant, ⟨word, bmp, rest, hh, hd⟩, hb⟩)
      | _ => cases hi

/-- A step on a word that is a BEGIN ends with BEGIN's report. -/
theorem step_begin_reports {s t : State} {vcc : Vcc} {variant : Variant}
    (hn : nextIs s (.begin vcc variant)) (h : step s = .next t) : BeginReports t := by
  obtain ⟨word, bmp, rest, hh, hd⟩ := hn
  rw [step_command hh hd] at h
  obtain ⟨-, -, hrep⟩ := exec_begin_next h
  exact hrep

/-- RES of every operation but BEGIN and GETPIX is 0 (R36). -/
theorem effect_res {i : Instr} (hi : isBegin i = false) (hg : ∀ x y, i ≠ .getpix x y) (s : State) :
    (effect i s).res = false := by
  cases i with
  | begin => cases hi
  | getpix x y => exact absurd rfl (hg x y)
  | _ => rfl

theorem pixelAt_of_pack {s : State} {x y : Int} {p : PixelAddr} (h : pack s.cfg s.rot x y = some p) :
    pixelAt s x y = fbBit s.fb p.idx p.bit := by
  simp only [pixelAt, h, fbBit]

/-- Settles O50, from the three kinds of step and what BEGIN reports. -/
theorem phaseMovesOnlyByBeginAndReset : Obligations.PhaseMovesOnlyByBeginAndReset := by
  refine ⟨fun _ _ => rfl, fun s t h => ⟨fun hu hr => ?_, fun vcc variant hn hres => ?_,
    fun hr hu => ?_⟩⟩
  · obtain ⟨-, hp, -⟩ | ⟨vcc, variant, hn, -, -, hrep⟩ | ⟨hp, -⟩ := step_control h
    · cases hp.symm.trans hr
    · exact ⟨vcc, variant, hn, hrep.res_iff_ready.2 hr⟩
    · cases hu.symm.trans (hp.symm.trans hr)
  · exact (step_begin_reports hn h).res_iff_ready.1 hres
  · obtain ⟨hreset, -⟩ | ⟨vcc, variant, -, hp, -⟩ | ⟨hp, -⟩ := step_control h
    · exact hreset
    · cases hp.symm.trans hr
    · cases hu.symm.trans (hp.trans hr)

/-- Settles O51, from the three kinds of step; FAILED is the first reason to refuse. -/
theorem failedIsSticky : Obligations.FailedIsSticky := by
  refine ⟨fun _ _ => rfl, fun s t h hs ht => ?_, fun s t h hs ht => ?_, fun s i hs => ?_⟩
  · obtain ⟨-, -, hf⟩ | ⟨vcc, variant, hn, -, -, hrep⟩ | ⟨-, hf⟩ := step_control h
    · cases hf.symm.trans ht
    · exact ⟨vcc, variant, hn, hrep.res_false_of_failed ht⟩
    · cases hs.symm.trans (hf.symm.trans ht)
  · obtain ⟨hreset, -⟩ | ⟨vcc, variant, -, -, hf, -⟩ | ⟨-, hf⟩ := step_control h
    · exact hreset
    · cases hf.symm.trans hs
    · cases ht.symm.trans (hf.trans hs)
  · rw [exec_eq, refuses_of_failed i hs]; rfl

/-- Settles O56: an operation appends `sentBytes`, and a step is idle, a reset or an operation. -/
theorem txIsAppendOnly : Obligations.TxIsAppendOnly := by
  refine ⟨fun s t h => ?_, fun i s t h => ?_⟩
  · obtain ⟨-, rfl⟩ | ⟨w, ht, z, rest, hh, rfl⟩ | ⟨word, bmp, rest, i, -, -, he⟩ := step_next h
    · exact .inr ⟨[], (List.append_nil _).symm⟩
    · exact .inl ⟨⟨w, ht, z, rest, hh⟩, rfl⟩
    · obtain ⟨-, rfl⟩ := exec_next_iff.1 he
      exact .inr ⟨_, effect_tx i (s.present bmp rest)⟩
  · obtain ⟨-, rfl⟩ := exec_next_iff.1 h
    exact ⟨sentBytes i s, effect_tx i s,
      fun l => effect_with_tx i s l ▸ exec_next_congr h rfl rfl⟩

/-- Settles O57, by the operation: BEGIN's report, GETPIX's pixel, and 0 for the rest. -/
theorem resIsMeaningfulForTwo : Obligations.ResIsMeaningfulForTwo := by
  intro i s t h
  refine ⟨fun vcc variant hi => ?_, fun x y p hi hp => ?_, fun hi hg => ?_⟩
  · subst hi
    obtain ⟨-, -, hrep⟩ := exec_begin_next h
    exact hrep.res_iff_ready
  · subst hi
    obtain ⟨-, rfl⟩ := exec_next_iff.1 h
    exact pixelAt_of_pack hp
  · obtain ⟨-, rfl⟩ := exec_next_iff.1 h
    exact effect_res hi hg s

theorem decode_of_decodeTableWord {nbits w : Nat} {i : Instr} (h : decodeTableWord nbits w = some i) :
    decode (tableWord nbits w) = .ok i := by
  unfold decodeTableWord at h
  split at h
  · cases hd : decode (tableWord nbits w) with
    | ok j => rw [hd] at h; cases h; rfl
    | error e => rw [hd] at h; cases h
  · cases h

/-- Settles O8: the placed word is the host's next event, with the bitmap that stands in the state. -/
theorem placedWordRunsNext : Obligations.PlacedWordRunsNext :=
  fun _ _ _ h => step_command rfl (decode_of_decodeTableWord h)

end Sys2Proof.Machine
end

section
/-! PROOF. What painting leaves alone (spec/40_pixel_engine.md R105, R107, R108): a bit of FB that `Pack`
names for no pixel of the run stays, so the padding bits stay (spec/20_memory.md R54). -/

namespace Sys2Proof.Machine

open Sys2Proof.Claims

/-! ### Bits that no painted pixel packs to -/

/-- A pixel leaves every bit alone but the one `Pack` names. -/
theorem fbBit_paintPixel_of_pack_ne {m : Memory} (hm : m.wf = true) {c : Config} {rot : Rot}
    (color : Color) {x y : Int} {idx bit : Nat} (hbit : bit < 8)
    (h : pack c rot x y ≠ some ⟨idx, bit⟩) :
    fbBit (paintPixel c rot color m x y) idx bit = fbBit m idx bit := by
  rw [fbBit, getLsbD_paintPixel hm c rot color x y idx hbit, if_neg h, fbBit]

/-- The loop both runs are written with: pixel after pixel, pixel `i` at `(xs i, ys i)`. -/
theorem fbBit_foldl_paintPixel_of_pack_ne {c : Config} {rot : Rot} (color : Color) (xs ys : Nat → Int)
    {idx bit : Nat} (hbit : bit < 8) (l : List Nat) {m : Memory} (hm : m.wf = true)
    (h : ∀ i ∈ l, pack c rot (xs i) (ys i) ≠ some ⟨idx, bit⟩) :
    fbBit (l.foldl (fun m i => paintPixel c rot color m (xs i) (ys i)) m) idx bit =
      fbBit m idx bit := by
  induction l generalizing m with
  | nil => rfl
  | cons i l ih =>
    obtain ⟨hi, hl⟩ := List.forall_mem_cons.1 h
    exact (ih (paintPixel_wf hm c rot color _ _) hl).trans
      (fbBit_paintPixel_of_pack_ne hm color hbit hi)

theorem fbBit_paintRow_of_pack_ne {m : Memory} (hm : m.wf = true) {c : Config} {rot : Rot}
    (color : Color) {x y len : Int} {idx bit : Nat} (hbit : bit < 8)
    (h : ∀ k : Nat, (k : Int) < len → pack c rot (x + k) y ≠ some ⟨idx, bit⟩) :
    fbBit (paintRow c rot color m x y len) idx bit = fbBit m idx bit :=
  fbBit_foldl_paintPixel_of_pack_ne color (fun k => x + k) (fun _ => y) hbit _ hm
    fun k hk => h k (Int.lt_toNat.1 (List.mem_range.1 hk))

theorem fbBit_paintColumn_of_pack_ne {m : Memory} (hm : m.wf = true) {c : Config} {rot : Rot}
    (color : Color) {x y len : Int} {idx bit : Nat} (hbit : bit < 8)
    (h : ∀ k : Nat, (k : Int) < len → pack c rot x (y + k) ≠ some ⟨idx, bit⟩) :
    fbBit (paintColumn c rot color m x y len) idx bit = fbBit m idx bit :=
  fbBit_foldl_paintPixel_of_pack_ne color (fun _ => x) (fun k => y + k) hbit _ hm
    fun k hk => h k (Int.lt_toNat.1 (List.mem_range.1 hk))

/-- SETPIX, HRUN and VRUN leave alone a bit that is no pixel's, wherever they paint. -/
theorem fbBit_effect_of_not_packed {i : Instr} (hi : paints i = true) {s : State}
    (hm : s.fb.wf = true) {idx bit : Nat} (hbit : bit < 8)
    (h : ∀ x y, pack s.cfg s.rot x y ≠ some ⟨idx, bit⟩) :
    fbBit (effect i s).fb idx bit = fbBit s.fb idx bit := by
  cases i with
  | setpix x y color => exact fbBit_paintPixel_of_pack_ne hm color hbit (h x y)
  | hrun x y len color => exact fbBit_paintRow_of_pack_ne hm color hbit fun k _ => h (x + k) y
  | vrun x y len color => exact fbBit_paintColumn_of_pack_ne hm color hbit fun k _ => h x (y + k)
  | _ => cases hi

/-! ### Padding bits -/

/-- The byte that holds row `8 * page + bit` of column `bx` is the column's byte of that page (R51). -/
theorem byteIndex_of_page (c : Config) (page bx : Nat) {bit : Nat} (hbit : bit < 8) :
    byteIndex c bx (8 * page + bit) = page * logicalWidth c + bx := by
  have page_eq : (8 * page + bit) / 8 = page := by omega
  rw [byteIndex, page_eq]

/-- `Pack` names no padding bit: the row of a bit it names is smaller than LH (R54, R102). -/
theorem pack_ne_padding {c : Config} {page bx bit : Nat} (hbx : bx < logicalWidth c) (hbit : bit < 8)
    (hpad : logicalHeight c ≤ 8 * page + bit) (rot : Rot) (x y : Int) :
    pack c rot x y ≠ some ⟨page * logicalWidth c + bx, bit⟩ := by
  intro h
  obtain ⟨bx', row, -, hbx', hrow, hp⟩ := pack_some h
  obtain ⟨hidx, hrowbit⟩ := PixelAddr.mk.inj hp
  have bit_eq : bitIndex (8 * page + bit) = bitIndex row := by
    rw [← hrowbit, bitIndex]
    omega
  obtain ⟨-, row_eq⟩ :=
    byteIndex_inj hbx hbx' ((byteIndex_of_page c page bx hbit).trans hidx) bit_eq
  omega

theorem fbBit_zeroMemory (idx bit : Nat) : fbBit zeroMemory idx bit = false := by
  rw [fbBit, readByte_zeroMemory]
  exact BitVec.getLsbD_zero

/-- Settles O30: no pixel packs to a padding bit, and CLEAR leaves the zero memory. -/
theorem paddingBitsOnlyCleared : Obligations.PaddingBitsOnlyCleared := by
  intro s t i hm h page bx bit hbx hbit hpad
  obtain ⟨-, rfl⟩ := exec_next_iff.1 h
  refine ⟨fun hi => ?_, fun hi => ?_⟩
  · exact fbBit_effect_of_not_packed hi hm hbit (pack_ne_padding hbx hbit hpad s.rot)
  · subst hi
    exact fbBit_zeroMemory _ _

end Sys2Proof.Machine
end

section
/-! PROOF. The transport's framing and the order of operations (spec/20_memory.md R59, R60, R62). -/

namespace Sys2Proof.Machine

open Sys2Proof.Claims

/-- A partition puts its runs end to end. -/
theorem tagged_of_partitions {tx : List TxByte} {runs : List Run} (h : partitions tx runs = true) :
    runs.flatMap Run.tagged = tx := by
  rw [partitions, Bool.and_eq_true, beq_iff_eq] at h
  exact h.2

/-- The run of one byte. -/
def TxByte.run (b : TxByte) : Run := ⟨b.isData, [b.byte]⟩

theorem TxByte.run_tagged (b : TxByte) : b.run.tagged = [b] := by cases b <;> rfl

/-- One run per byte is a partition (R59: "one or more bytes"). -/
theorem partitions_bytewise (tx : List TxByte) : partitions tx (tx.map TxByte.run) = true := by
  have nonempty : (tx.map TxByte.run).all (fun r => !r.bytes.isEmpty) = true := by
    simp [TxByte.run]
  have tagged : (tx.map TxByte.run).flatMap Run.tagged = tx := by
    simp [List.flatMap_map, TxByte.run_tagged]
  rw [partitions, nonempty, tagged, beq_self_eq_true, Bool.and_self]

/-- The prefixes 0x00 and 0x40 differ, so a prefixed run gives its tag back (R59). -/
theorem unprefix_transaction_i2c (r : Run) : unprefix (transaction .i2c r) = r.tagged := by
  obtain ⟨isData, bytes⟩ := r
  cases isData <;> rfl

/-- Settles O58: a byte-by-byte trace is admitted, and every admitted trace gives its runs back by their
prefixes. -/
theorem i2cPrefixesDetermineTx : Obligations.I2cPrefixesDetermineTx := by
  intro c tx hc
  refine ⟨⟨_, tx.map TxByte.run, partitions_bytewise tx, rfl⟩, ?_⟩
  rintro wire ⟨runs, hruns, rfl⟩
  calc (runs.map (transaction c.transport)).flatMap unprefix
      = runs.flatMap Run.tagged := by
        simp only [hc, List.flatMap_map, unprefix_transaction_i2c]
    _ = tx := tagged_of_partitions hruns

/-- Settles O7: the state in which the event is consumed is the one that presents its bitmap. -/
theorem stepRunsTheDecodedOperation : Obligations.StepRunsTheDecodedOperation :=
  fun _ _ _ _ _ hhost hdecode => step_command hhost hdecode

end Sys2Proof.Machine
end

section
/-! PROOF. The operands of a command word are read back from the bits they are written to, and those bits
from the operands (spec/30_encoding.md R72 to R74). -/

namespace Sys2Proof

/-! ### 16-bit operands (R72, R73) -/

theorem sext16_ofInt {v : Int} (h : fitsSigned16 v = true) : sext16 (.ofInt 16 v) = v := by
  obtain ⟨lower, upper⟩ := Bool.and_eq_true_iff.1 h
  exact BitVec.toInt_ofInt_eq_self (by decide) (of_decide_eq_true lower)
    (Int.lt_add_one_iff.2 (of_decide_eq_true upper))

@[simp] theorem ofInt_sext16 (v : BitVec 16) : .ofInt 16 (sext16 v) = v := BitVec.ofInt_toInt

@[simp] theorem fitsSigned16_sext16 (v : BitVec 16) : fitsSigned16 (sext16 v) = true := by
  have lower : -32768 ≤ v.toInt := BitVec.le_toInt v
  have upper : v.toInt < 32768 := BitVec.toInt_lt
  rw [fitsSigned16, sext16, decide_eq_true lower, decide_eq_true (Int.lt_add_one_iff.1 upper)]
  rfl

theorem zext16_ofNat {v : Nat} (h : fitsUnsigned16 v = true) : zext16 (.ofNat 16 v) = v :=
  (BitVec.toNat_ofNat v 16).trans (Nat.mod_eq_of_lt (of_decide_eq_true h))

@[simp] theorem ofNat_zext16 (v : BitVec 16) : .ofNat 16 (zext16 v) = v := BitVec.ofNat_toNat ..

@[simp] theorem fitsUnsigned16_zext16 (v : BitVec 16) : fitsUnsigned16 (zext16 v) = true :=
  decide_eq_true v.isLt

/-! ### Scroll pages: a byte in a 16-bit operand whose high byte is 0 (R73) -/

theorem highByte_append_lowByte (v : BitVec 16) : highByte v ++ lowByte v = v :=
  (BitVec.extractLsb'_append_extractLsb'_eq_extractLsb' rfl).trans BitVec.extractLsb'_eq_self

theorem highByte_append (hi lo : Byte) : highByte (hi ++ lo) = hi :=
  (BitVec.extractLsb'_append_eq_of_le (by decide)).trans BitVec.extractLsb'_eq_self

theorem lowByte_append (hi lo : Byte) : lowByte (hi ++ lo) = lo :=
  (BitVec.extractLsb'_append_eq_of_add_le (by decide)).trans BitVec.extractLsb'_eq_self

theorem pageOperand_eq_append (page : Byte) : pageOperand page = 0#8 ++ page :=
  BitVec.setWidth_eq_append (by decide)

@[simp] theorem lowByte_pageOperand (page : Byte) : lowByte (pageOperand page) = page := by
  rw [pageOperand_eq_append, lowByte_append]

@[simp] theorem highByte_pageOperand (page : Byte) : highByte (pageOperand page) = 0 := by
  rw [pageOperand_eq_append, highByte_append]
  rfl

theorem pageOperand_lowByte {v : BitVec 16} (h : highByte v = 0) : pageOperand (lowByte v) = v :=
  calc pageOperand (lowByte v)
      = highByte v ++ lowByte v := by rw [pageOperand_eq_append, h]; rfl
    _ = v := highByte_append_lowByte v

/-- The mask 0xFF00 of a scroll operand (R75) tests its high byte. -/
@[simp] theorem and_ff00_eq_zero_iff (v : BitVec 16) : v &&& 0xFF00#16 = 0#16 ↔ highByte v = 0#8 := by
  have masked : v &&& 0xFF00#16 = highByte v ++ 0#8 :=
    calc v &&& 0xFF00#16
        = (highByte v ++ lowByte v) &&& (BitVec.allOnes 8 ++ 0#8) := by
          rw [highByte_append_lowByte]; rfl
      _ = highByte v ++ 0#8 := by
          rw [BitVec.and_append, BitVec.and_allOnes, BitVec.and_zero]
  rw [masked]
  exact ⟨fun h => (highByte_append _ _).symm.trans (congrArg highByte h), fun h => by rw [h]; rfl⟩

/-! ### The two operand bits of `fl` (R74) -/

@[simp] theorem flBits_getElem_zero (lo hi : Bool) : (flBits lo hi)[0] = lo := by
  cases lo <;> cases hi <;> rfl

@[simp] theorem flBits_getElem_one (lo hi : Bool) : (flBits lo hi)[1] = hi := by
  cases lo <;> cases hi <;> rfl

@[simp] theorem flBits_and_fc (lo hi : Bool) : flBits lo hi &&& 0xFC#8 = 0#8 := by
  cases lo <;> cases hi <;> rfl

@[simp] theorem flBits_and_fe (lo : Bool) : flBits lo false &&& 0xFE#8 = 0#8 := by
  cases lo <;> rfl

theorem flBits_of_and_fc {fl : BitVec 8} (h : fl &&& 0xFC#8 = 0#8) :
    flBits fl[0] fl[1] = fl := by
  revert fl
  decide

theorem flBits_of_and_fe {fl : BitVec 8} (h : fl &&& 0xFE#8 = 0#8) :
    flBits fl[0] false = fl := by
  revert fl
  decide

theorem flBegin_ofBits (lo hi : Bool) : flBegin (vccOfBit lo) (variantOfBit hi) = flBits lo hi := by
  cases lo <;> cases hi <;> rfl

theorem flRot_rotOfBits (lo hi : Bool) : flRot (rotOfBits lo hi) = flBits lo hi := by
  cases lo <;> cases hi <;> rfl

theorem flColor_of_colorOfBits {lo hi : Bool} {color : Color} (h : colorOfBits lo hi = some color) :
    flColor color = flBits lo hi := by
  cases lo <;> cases hi <;> cases h <;> rfl

@[simp] theorem vccOfBit_flBegin (vcc : Vcc) (variant : Variant) :
    vccOfBit (flBegin vcc variant)[0] = vcc := by
  cases vcc <;> cases variant <;> rfl

@[simp] theorem variantOfBit_flBegin (vcc : Vcc) (variant : Variant) :
    variantOfBit (flBegin vcc variant)[1] = variant := by
  cases vcc <;> cases variant <;> rfl

@[simp] theorem rotOfBits_flRot (rot : Rot) :
    rotOfBits (flRot rot)[0] (flRot rot)[1] = rot := by
  cases rot <;> rfl

@[simp] theorem colorOfBits_flColor (color : Color) :
    colorOfBits (flColor color)[0] (flColor color)[1] = some color := by
  cases color <;> rfl

@[simp] theorem flBegin_and_fc (vcc : Vcc) (variant : Variant) : flBegin vcc variant &&& 0xFC#8 = 0#8 :=
  flBits_and_fc _ _

@[simp] theorem flRot_and_fc (rot : Rot) : flRot rot &&& 0xFC#8 = 0#8 := by
  cases rot <;> rfl

@[simp] theorem flColor_and_fc (color : Color) : flColor color &&& 0xFC#8 = 0#8 := by
  cases color <;> rfl

/-- The two bits `fl[1:0]` are a colour unless they are 3. -/
theorem exists_colorOfBits_iff (fl : BitVec 8) :
    (∃ color, colorOfBits fl[0] fl[1] = some color) ↔ fl.extractLsb' 0 2 ≠ 3#2 := by
  rw [← Option.isSome_iff_exists]
  revert fl
  decide

end Sys2Proof
end

section
/-! PROOF. `decode` and `encode` are inverse to each other (spec/30_encoding.md R70, R75, R77). -/

namespace Sys2Proof

theorem exists_packWord (w : CmdWord) :
    ∃ (op fl : BitVec 8) (a b c d : BitVec 16), w = packWord op fl a b c d :=
  ⟨_, _, _, _, _, _, (packWord_fields w).symm⟩

@[simp] theorem decode_packWord (op fl : BitVec 8) (a b c d : BitVec 16) :
    decode (packWord op fl a b c d) = decodeFields op fl a b c d := by
  simp only [decode, opField_packWord, flField_packWord, aField_packWord, bField_packWord,
    cField_packWord, dField_packWord]

@[simp] theorem requireZero_eq_ok_iff {zeros : Bool} {i j : Instr} :
    requireZero zeros i = .ok j ↔ zeros = true ∧ i = j := by
  cases zeros <;> simp [requireZero]

@[simp] theorem requireColor_eq_ok_iff {zeros : Bool} {fl : BitVec 8} {i : Color → Instr} {j : Instr} :
    requireColor zeros fl i = .ok j ↔
      zeros = true ∧ ∃ color, colorOfBits fl[0] fl[1] = some color ∧ i color = j := by
  have bits : colorOfBits (fl.getLsbD 0) (fl.getLsbD 1) = colorOfBits fl[0] fl[1] := rfl
  rw [requireColor, bits]
  cases zeros <;> cases colorOfBits fl[0] fl[1] <;> simp

/-- Operand by operand: `wellFormed` is the range in which a 16-bit operand is read back. -/
theorem decode_encode {i : Instr} (h : i.wellFormed = true) : decode (encode i) = .ok i := by
  cases i with
  | setpix | getpix | hrun | vrun | xferrgn =>
    simp only [Instr.wellFormed, Bool.and_eq_true] at h
    simp [encode, decodeFields, sext16_ofInt, h]
  | blit =>
    simp only [Instr.wellFormed, Bool.and_eq_true] at h
    simp [encode, decodeFields, zext16_ofNat, h]
  | _ => simp [encode, decodeFields]

theorem op_eq_ofNat {op : BitVec 8} {n : Nat} (h : op.toNat = n) : op = .ofNat 8 n := by
  rw [← h, BitVec.ofNat_toNat, BitVec.setWidth_eq]

/-- By the arm that decoded the word: its tests say that the bits no operand fills are 0, and every other
bit is written back from the operand it was read to. -/
theorem wellFormed_and_encode_of_decode {w : CmdWord} {i : Instr} (h : decode w = .ok i) :
    i.wellFormed = true ∧ encode i = w := by
  obtain ⟨op, fl, a, b, c, d, rfl⟩ := exists_packWord w
  rw [decode_packWord, decodeFields] at h
  split at h
  case h_18 => cases h -- no such opcode
  all_goals
    rename_i hop
    obtain rfl := op_eq_ofNat hop
    clear hop
    simp only [requireZero_eq_ok_iff, requireColor_eq_ok_iff, Bool.and_eq_true, beq_iff_eq,
      and_assoc] at h
  case h_1 => -- BEGIN
    obtain ⟨hfl, rfl, rfl, rfl, rfl, rfl⟩ := h
    simp [Instr.wellFormed, encode, flBegin_ofBits, flBits_of_and_fc hfl]
  case h_2 | h_8 | h_17 => -- CLEAR, XFERFULL, SCRSTOP
    obtain ⟨rfl, rfl, rfl, rfl, rfl, rfl⟩ := h
    exact ⟨rfl, rfl⟩
  case h_3 => -- SETROT
    obtain ⟨hfl, rfl, rfl, rfl, rfl, rfl⟩ := h
    simp [Instr.wellFormed, encode, flRot_rotOfBits, flBits_of_and_fc hfl]
  case h_4 => -- SETPIX
    obtain ⟨hfl, rfl, rfl, color, hcolor, rfl⟩ := h
    simp [Instr.wellFormed, encode, flColor_of_colorOfBits hcolor, flBits_of_and_fc hfl]
  case h_6 | h_7 => -- HRUN, VRUN
    obtain ⟨hfl, rfl, color, hcolor, rfl⟩ := h
    simp [Instr.wellFormed, encode, flColor_of_colorOfBits hcolor, flBits_of_and_fc hfl]
  case h_5 => -- GETPIX
    obtain ⟨rfl, rfl, rfl, rfl⟩ := h
    simp [Instr.wellFormed, encode]
  case h_9 => -- XFERRGN
    obtain ⟨rfl, rfl⟩ := h
    simp [Instr.wellFormed, encode]
  case h_10 => -- BLIT
    obtain ⟨hfl, rfl⟩ := h
    simp [Instr.wellFormed, encode, flBits_of_and_fc hfl]
  case h_11 | h_12 => -- SETINV, SETDIM
    obtain ⟨hfl, rfl, rfl, rfl, rfl, rfl⟩ := h
    simp [Instr.wellFormed, encode, flBits_of_and_fe hfl]
  case h_13 | h_14 | h_15 | h_16 => -- the four scrolls
    obtain ⟨rfl, ha, hb, rfl, rfl, rfl⟩ := h
    exact ⟨rfl, by rw [encode, pageOperand_lowByte ha, pageOperand_lowByte hb]; rfl⟩

/-- Settles O1: the decoder computes on written-out words. -/
theorem printedWordsDecode : Obligations.PrintedWordsDecode :=
  ⟨rfl, rfl, rfl, rfl, rfl, rfl, rfl, rfl⟩

/-- Settles O2, by the operation, operand by operand. -/
theorem decodeEncode : Obligations.DecodeEncode := fun _ => decode_encode

/-- Settles O3, by the arm of the decoder. -/
theorem encodeDecode : Obligations.EncodeDecode := fun _ _ => wellFormed_and_encode_of_decode

end Sys2Proof
end

section
/-! PROOF. The rows that select a word, and the operation it decodes to (spec/30_encoding.md R75, R77). A
mask and match pair is read field by field; the decoder's tests are then the row's. -/

namespace Sys2Proof

/-! ### A row's selection, field by field -/

theorem extractLsb'_packWord_flBits (op fl : BitVec 8) (a b c d : BitVec 16) :
    (packWord op fl a b c d).extractLsb' 64 2 = fl.extractLsb' 0 2 := by
  have of_flField (w : CmdWord) : w.extractLsb' 64 2 = (flField w).extractLsb' 0 2 := by
    ext i hi
    simp [flField]
    omega
  rw [of_flField, flField_packWord]

theorem selects_packWord_iff (r : OpcodeRow) (op fl : BitVec 8) (a b c d : BitVec 16) :
    r.selects (packWord op fl a b c d) = true ↔
      (op &&& opField r.mask = opField r.pattern ∧ fl &&& flField r.mask = flField r.pattern ∧
        a &&& aField r.mask = aField r.pattern ∧ b &&& bField r.mask = bField r.pattern ∧
        c &&& cField r.mask = cField r.pattern ∧ d &&& dField r.mask = dField r.pattern) ∧
      (r.colored = true → ∃ color, colorOfBits fl[0] fl[1] = some color) := by
  rw [exists_colorOfBits_iff, ← packWord_inj, ← packWord_and, packWord_fields, packWord_fields,
    OpcodeRow.selects, extractLsb'_packWord_flBits]
  cases r.colored <;> simp

/-- A mask of ones, as the table's literals evaluate to it. -/
@[simp] theorem and_ff (v : BitVec 8) : v &&& 0xFF#8 = v := BitVec.and_allOnes

@[simp] theorem and_ffff (v : BitVec 16) : v &&& 0xFFFF#16 = v := BitVec.and_allOnes

/-! ### Rows and decoded operations -/

/-- An encoded word is selected by the row of its operation. -/
theorem encode_selected (i : Instr) :
    ∃ r ∈ opcodeTable, r.mnemonic = i.mnemonic ∧ r.selects (encode i) = true := by
  cases i <;>
    simp [opcodeTable, Instr.mnemonic, encode, selects_packWord_iff, opField, flField, aField, bField,
      cField, dField]

/-- A word that a row selects passes the tests of the row's arm of the decoder: with the row's literals
evaluated, the selection `h` is those tests. -/
theorem decode_of_selects {r : OpcodeRow} (hr : r ∈ opcodeTable) {w : CmdWord}
    (h : r.selects w = true) : ∃ i, decode w = .ok i ∧ i.mnemonic = r.mnemonic := by
  obtain ⟨op, fl, a, b, c, d, rfl⟩ := exists_packWord w
  rw [selects_packWord_iff] at h
  rw [decode_packWord]
  fin_cases hr
  all_goals
    simp [opField, flField, aField, bField, cField, dField] at h
    simp [h, decodeFields, Instr.mnemonic]

/-- A row that selects a word has the mnemonic of the operation the word decodes to. -/
theorem mnemonic_eq_of_selects {r : OpcodeRow} (hr : r ∈ opcodeTable) {w : CmdWord}
    (h : r.selects w = true) {i : Instr} (hd : decode w = .ok i) : i.mnemonic = r.mnemonic := by
  obtain ⟨j, hj, hm⟩ := decode_of_selects hr h
  cases hd.symm.trans hj
  exact hm

theorem decodes_iff_selected (w : CmdWord) :
    (∃ i, decode w = .ok i) ↔ ∃ r ∈ opcodeTable, r.selects w = true := by
  constructor
  · rintro ⟨i, hd⟩
    obtain ⟨-, rfl⟩ := wellFormed_and_encode_of_decode hd
    obtain ⟨r, hr, -, hs⟩ := encode_selected i
    exact ⟨r, hr, hs⟩
  · rintro ⟨r, hr, hs⟩
    obtain ⟨i, hd, -⟩ := decode_of_selects hr hs
    exact ⟨i, hd⟩

theorem opcodeTable_mnemonics_nodup : (opcodeTable.map OpcodeRow.mnemonic).Nodup := by decide

/-- Settles O4, by the row's own arm one way and the row of the encoded operation the other. -/
theorem decodeFollowsTheTable : Obligations.DecodeFollowsTheTable :=
  fun w => ⟨decodes_iff_selected w, fun _ _ hd hr hs => mnemonic_eq_of_selects hr hs hd⟩

/-- Settles O5: both rows have the mnemonic of the one operation the word decodes to. -/
theorem rowsAreDisjoint : Obligations.RowsAreDisjoint := by
  intro w r r' hr hr' hs hs'
  obtain ⟨i, hd, hm⟩ := decode_of_selects hr hs
  exact List.inj_on_of_nodup_map opcodeTable_mnemonics_nodup hr hr'
    (hm.symm.trans (mnemonic_eq_of_selects hr' hs' hd))

end Sys2Proof

namespace Sys2Proof.Machine

open Sys2Proof.Claims

/-! ### Reserved encodings at the step (R77) -/

/-- No operation is refused as a reserved encoding: that reason is the step's alone. -/
theorem exec_ne_reservedEncoding (i : Instr) (s : State) : exec i s ≠ .refused .reservedEncoding := by
  rw [exec_eq, refuses, refusesBegin, refusesOperation]
  cases isBegin i <;> cases s.failed <;> cases s.phase <;> simp [unlessRefused]

theorem step_eq_reservedEncoding_iff {s : State} {word : CmdWord} {bmp : List Byte}
    {rest : List HostEvent} (hh : s.host = .command word bmp :: rest) :
    step s = .refused .reservedEncoding ↔ ¬ ∃ i, decode word = .ok i := by
  cases hd : decode word with
  | ok i => simp [step_command hh hd, exec_ne_reservedEncoding]
  | error e => simp [step, hh, hd]

/-- Settles O6: the step refuses what does not decode (R77), which is what no row selects (O4). -/
theorem reservedWordsRefused : Obligations.ReservedWordsRefused := by
  intro s w bmp rest hh
  rw [step_eq_reservedEncoding_iff hh, decodes_iff_selected]
  simp

end Sys2Proof.Machine
end

section
/-! PROOF. `Pack` as a mapping (spec/40_pixel_engine.md R101, R102; spec/20_memory.md R51): the buffer
coordinate it names, and the surface on which it is valid. -/

namespace Sys2Proof.Machine

open Sys2Proof.Claims

/-- Buffer coordinates inside FB have a bit (R51, R102); `pack_some` is the converse. -/
theorem pack_of_remap {c : Config} {rot : Rot} {x y : Int} {bx row : Nat}
    (hr : remap c rot x y = ((bx : Int), (row : Int))) (hbx : bx < logicalWidth c)
    (hrow : row < logicalHeight c) :
    pack c rot x y = some ⟨byteIndex c bx row, bitIndex row⟩ := by
  have inside : 0 ≤ (bx : Int) ∧ (bx : Int) < logicalWidth c ∧
      0 ≤ (row : Int) ∧ (row : Int) < logicalHeight c := by omega
  simp only [pack, hr, if_pos inside, Int.toNat_natCast]

/-- `Pack` names the bit of a buffer coordinate inside FB for the pixel that is remapped to it, and for no
other. -/
theorem pack_eq_buffer_bit_iff {c : Config} {rot : Rot} {x y : Int} {bx row : Nat}
    (hbx : bx < logicalWidth c) (hrow : row < logicalHeight c) :
    pack c rot x y = some ⟨byteIndex c bx row, bitIndex row⟩ ↔
      remap c rot x y = ((bx : Int), (row : Int)) := by
  refine ⟨fun h => ?_, fun hr => pack_of_remap hr hbx hrow⟩
  obtain ⟨bx', row', hr, hbx', -, hp⟩ := pack_some h
  obtain ⟨hidx, hbit⟩ := PixelAddr.mk.inj hp
  obtain ⟨rfl, rfl⟩ := byteIndex_inj hbx hbx' hidx hbit
  exact hr

/-- The application's surface is what the remap carries into FB (R101). -/
theorem onSurface_iff_remap_inside (c : Config) (rot : Rot) (x y : Int) :
    onSurface c rot x y ↔
      0 ≤ (remap c rot x y).1 ∧ (remap c rot x y).1 < logicalWidth c ∧
        0 ≤ (remap c rot x y).2 ∧ (remap c rot x y).2 < logicalHeight c := by
  cases rot <;> simp only [onSurface, remap] <;> omega

theorem pack_ne_none_iff_onSurface (c : Config) (rot : Rot) (x y : Int) :
    pack c rot x y ≠ none ↔ onSurface c rot x y := by
  rw [onSurface_iff_remap_inside]
  simp [pack]

theorem exists_pack_of_onSurface {c : Config} {rot : Rot} {x y : Int} (h : onSurface c rot x y) :
    ∃ p, pack c rot x y = some p :=
  Option.ne_none_iff_exists'.1 ((pack_ne_none_iff_onSurface c rot x y).2 h)

theorem pack_eq_none_of_not_onSurface {c : Config} {rot : Rot} {x y : Int}
    (h : ¬ onSurface c rot x y) : pack c rot x y = none :=
  of_not_not (mt (pack_ne_none_iff_onSurface c rot x y).1 h)

/-- Settles O19: validity is the range test read back through the remap, the address is that of the
remapped coordinate, and `pack_inj` keeps pixels apart. -/
theorem packIsTheMapping : Obligations.PackIsTheMapping := by
  intro c rot x y
  refine ⟨pack_ne_none_iff_onSurface c rot x y, fun idx bit => ⟨fun h => ?_, ?_⟩,
    fun x' y' hs h => ?_⟩
  · obtain ⟨bx, row, hr, hbx, hrow, hp⟩ := pack_some h
    obtain ⟨hidx, hbit⟩ := PixelAddr.mk.inj hp
    exact ⟨bx, row, hr, hbx, hrow, hidx, hbit⟩
  · rintro ⟨bx, row, hr, hbx, hrow, rfl, rfl⟩
    exact pack_of_remap hr hbx hrow
  · obtain ⟨p, hp⟩ := exists_pack_of_onSurface hs
    exact pack_inj (h.trans hp) hp

end Sys2Proof.Machine
end

section
/-! PROOF. What painting does to the bits `Pack` names (spec/40_pixel_engine.md R103 to R109): a pixel
takes its colour, and a pixel of a run takes it once, because no other pixel of the run has its bit. -/

namespace Sys2Proof.Machine

open Sys2Proof.Claims

/-- An operation other than BEGIN completes in an admitting state (R242). -/
theorem exec_of_admits {i : Instr} (hi : isBegin i = false) {s : State} (h : Admits s) :
    exec i s = .next (effect i s) :=
  exec_next_iff.2 ⟨(refuses_none_iff_admits hi).2 h, rfl⟩

/-- A state that admits operations still does after one of them (R23, R24). -/
theorem admits_effect {i : Instr} (hi : isBegin i = false) {s : State} (h : Admits s) :
    Admits (effect i s) := by
  obtain ⟨ready, notFailed⟩ := h
  obtain ⟨hp, hf, -⟩ := effect_session hi s
  exact ⟨hp.trans ready, hf.trans notFailed⟩

/-- Settles O21: `effect` of SETROT is the record the statement writes out. -/
theorem setrotSetsRotOnly : Obligations.SetrotSetsRotOnly := fun _ _ h => exec_of_admits rfl h

/-! ### One pixel -/

/-- One pixel write (R104, R105). -/
theorem fbBit_paintPixel {m : Memory} (hm : m.wf = true) (c : Config) (rot : Rot) (color : Color)
    (x y : Int) (idx : Nat) {bit : Nat} (hbit : bit < 8) :
    fbBit (paintPixel c rot color m x y) idx bit =
      if pack c rot x y = some ⟨idx, bit⟩ then colored color (fbBit m idx bit)
      else fbBit m idx bit := by
  rw [fbBit, getLsbD_paintPixel hm c rot color x y idx hbit]
  cases color <;> rfl

theorem fbBit_paintPixel_of_pack_eq {m : Memory} (hm : m.wf = true) {c : Config} {rot : Rot}
    (color : Color) {x y : Int} {idx bit : Nat} (h : pack c rot x y = some ⟨idx, bit⟩) :
    fbBit (paintPixel c rot color m x y) idx bit = colored color (fbBit m idx bit) := by
  obtain ⟨-, hbit⟩ := pack_idx_lt h
  rw [fbBit_paintPixel hm c rot color x y idx hbit, if_pos h]

theorem paintPixel_of_pack_none {c : Config} {rot : Rot} {x y : Int} (h : pack c rot x y = none)
    (color : Color) (m : Memory) : paintPixel c rot color m x y = m := by
  simp only [paintPixel, h]

theorem pixelAt_of_pack_none {s : State} {x y : Int} (h : pack s.cfg s.rot x y = none) :
    pixelAt s x y = false := by
  simp only [pixelAt, h]

/-- Settles O22, by the one bit that a pixel write changes. -/
theorem setpixPaintsOnePixel : Obligations.SetpixPaintsOnePixel := fun s x y color h hm =>
  ⟨_, exec_of_admits rfl h, rfl, fun idx _ hbit =>
    fbBit_paintPixel hm s.cfg s.rot color x y idx hbit⟩

/-- Settles O23: GETPIX's effect is RES := `pixelAt`, evaluated in both cases of `Pack`. -/
theorem getpixReturnsThePixel : Obligations.GetpixReturnsThePixel := by
  intro s x y h
  have run : exec (.getpix x y) s = .next (s.withRes (pixelAt s x y)) := exec_of_admits rfl h
  refine ⟨fun p hp => ?_, fun hp => ?_⟩
  · rw [run, pixelAt_of_pack hp]; rfl
  · rw [run, pixelAt_of_pack_none hp]; rfl

/-! ### Set, reset or invert, then get (R111) -/

/-- SETPIX on the surface, as GETPIX sees it. -/
theorem pixelAt_effect_setpix {s : State} (hm : s.fb.wf = true) {x y : Int}
    (hs : onSurface s.cfg s.rot x y) (color : Color) :
    pixelAt (effect (.setpix x y color) s) x y = colored color (pixelAt s x y) := by
  obtain ⟨p, hp⟩ := exists_pack_of_onSurface hs
  calc pixelAt (effect (.setpix x y color) s) x y
      = fbBit (paintPixel s.cfg s.rot color s.fb x y) p.idx p.bit :=
        pixelAt_of_pack (s := effect (.setpix x y color) s) hp
    _ = colored color (fbBit s.fb p.idx p.bit) := fbBit_paintPixel_of_pack_eq hm color hp
    _ = colored color (pixelAt s x y) := by rw [pixelAt_of_pack hp]

/-- SETPIX outside the surface writes no FB. -/
theorem effect_setpix_of_pack_none {s : State} {x y : Int} (h : pack s.cfg s.rot x y = none)
    (color : Color) : effect (.setpix x y color) s = s.withRes false := by
  rw [effect, paintPixel_of_pack_none h]
  rfl

/-- On the surface SETPIX completes, and GETPIX then returns the colour on the prior pixel. -/
theorem exec_setpix_then_getpix {s : State} (h : Admits s) (hm : s.fb.wf = true) {x y : Int}
    (hs : onSurface s.cfg s.rot x y) (color : Color) :
    ∃ t, exec (.setpix x y color) s = .next t ∧
      exec (.getpix x y) t = .next { t with res := colored color (pixelAt s x y) } := by
  refine ⟨_, exec_of_admits rfl h, ?_⟩
  rw [← pixelAt_effect_setpix hm hs color]
  exact exec_of_admits rfl (admits_effect rfl h)

/-- Settles O29: the three colours on the surface, and the invalid `Pack` outside it. -/
theorem pixelLaws : Obligations.PixelLaws := by
  intro s x y h hm
  refine ⟨fun hs => ⟨?_, ?_, ?_⟩, fun hs => ?_⟩
  · exact exec_setpix_then_getpix h hm hs .on
  · exact exec_setpix_then_getpix h hm hs .off
  · obtain ⟨t, hset, hget⟩ := exec_setpix_then_getpix h hm hs .invert
    exact ⟨pixelAt s x y, t, exec_of_admits rfl h, hset, hget⟩
  · have hp := pack_eq_none_of_not_onSurface hs
    refine ⟨fun color => ?_, (getpixReturnsThePixel s x y h).2 hp⟩
    rw [exec_of_admits rfl h, effect_setpix_of_pack_none hp]
    rfl

/-! ### Runs (R107, R108) -/

/-- Pixel `i` of the loop both runs are written with takes the colour once: no pixel before or after it
has its bit. -/
theorem fbBit_foldl_paintPixel_of_pack_eq {c : Config} {rot : Rot} (color : Color) (xs ys : Nat → Int)
    {l : List Nat} (hl : l.Nodup) {m : Memory} (hm : m.wf = true) {i idx bit : Nat} (hi : i ∈ l)
    (h : pack c rot (xs i) (ys i) = some ⟨idx, bit⟩)
    (only : ∀ j, pack c rot (xs j) (ys j) = some ⟨idx, bit⟩ → j = i) :
    fbBit (l.foldl (fun m i => paintPixel c rot color m (xs i) (ys i)) m) idx bit =
      colored color (fbBit m idx bit) := by
  obtain ⟨-, hbit⟩ := pack_idx_lt h
  obtain ⟨before, after, rfl⟩ := List.append_of_mem hi
  obtain ⟨hi', -⟩ := List.nodup_cons.1 (List.nodup_middle.1 hl)
  have others : ∀ j ∈ before ++ after, pack c rot (xs j) (ys j) ≠ some ⟨idx, bit⟩ :=
    fun j hj hp => hi' (only j hp ▸ hj)
  obtain ⟨others_before, others_after⟩ := List.forall_mem_append.1 others
  have wf_before := foldl_wf (fun m j => paintPixel c rot color m (xs j) (ys j))
    (fun _ _ hm => paintPixel_wf hm c rot color _ _) before hm
  rw [List.foldl_append, List.foldl_cons,
    fbBit_foldl_paintPixel_of_pack_ne color xs ys hbit after
      (paintPixel_wf wf_before c rot color _ _) others_after,
    fbBit_paintPixel_of_pack_eq wf_before color h,
    fbBit_foldl_paintPixel_of_pack_ne color xs ys hbit before hm others_before]

theorem fbBit_paintRow_of_pack_eq {m : Memory} (hm : m.wf = true) {c : Config} {rot : Rot}
    (color : Color) {x y len : Int} {k idx bit : Nat} (hk : (k : Int) < len)
    (h : pack c rot (x + k) y = some ⟨idx, bit⟩) :
    fbBit (paintRow c rot color m x y len) idx bit = colored color (fbBit m idx bit) := by
  refine fbBit_foldl_paintPixel_of_pack_eq color (fun k => x + k) (fun _ => y) List.nodup_range hm
    (List.mem_range.2 (Int.lt_toNat.2 hk)) h fun j hj => ?_
  obtain ⟨hx, -⟩ := pack_inj hj h
  omega

theorem fbBit_paintColumn_of_pack_eq {m : Memory} (hm : m.wf = true) {c : Config} {rot : Rot}
    (color : Color) {x y len : Int} {k idx bit : Nat} (hk : (k : Int) < len)
    (h : pack c rot x (y + k) = some ⟨idx, bit⟩) :
    fbBit (paintColumn c rot color m x y len) idx bit = colored color (fbBit m idx bit) := by
  refine fbBit_foldl_paintPixel_of_pack_eq color (fun _ => x) (fun k => y + k) List.nodup_range hm
    (List.mem_range.2 (Int.lt_toNat.2 hk)) h fun j hj => ?_
  obtain ⟨-, hy⟩ := pack_inj hj h
  omega

/-- Settles O24: a bit of the run takes the colour once, any other bit stays. -/
theorem hrunPaintsTheRun : Obligations.HrunPaintsTheRun := fun _ _ _ _ color h hm =>
  ⟨_, exec_of_admits rfl h, rfl, fun _ _ hbit =>
    ⟨fun _ hk hp => fbBit_paintRow_of_pack_eq hm color hk hp,
      fun hne => fbBit_paintRow_of_pack_ne hm color hbit hne⟩⟩

/-- Settles O25, as O24 for columns. -/
theorem vrunPaintsTheRun : Obligations.VrunPaintsTheRun := fun _ _ _ _ color h hm =>
  ⟨_, exec_of_admits rfl h, rfl, fun _ _ hbit =>
    ⟨fun _ hk hp => fbBit_paintColumn_of_pack_eq hm color hk hp,
      fun hne => fbBit_paintColumn_of_pack_ne hm color hbit hne⟩⟩

/-- At ROT 0 pixel `k` of a horizontal run is the buffer coordinate (x + k, y). -/
theorem pack_deg0_row_pixel_iff {c : Config} {x y k bx row : Nat} (hbx : bx < logicalWidth c)
    (hrow : row < logicalHeight c) :
    pack c .deg0 ((x : Int) + k) y = some ⟨byteIndex c bx row, bitIndex row⟩ ↔
      x + k = bx ∧ y = row := by
  rw [pack_eq_buffer_bit_iff hbx hrow, remap, Prod.mk.injEq]
  omega

/-- Settles O26, from O24: inside FB the run's pixels are the coordinates the clipped run counts. -/
theorem hrunClipsAtTheRightEdge : Obligations.HrunClipsAtTheRightEdge := by
  intro s x y len color h hm hrot hx hy
  obtain ⟨t, hexec, -, hbits⟩ := hrunPaintsTheRun s x y len color h hm
  rw [hrot] at hbits
  refine ⟨t, hexec, fun bx row hbx hrow => ?_⟩
  obtain ⟨painted, kept⟩ :=
    hbits (byteIndex s.cfg bx row) (bitIndex row) (Nat.mod_lt row (by decide))
  split
  · rename_i inRun
    exact painted (bx - x) (by omega) ((pack_deg0_row_pixel_iff hbx hrow).2 (by omega))
  · rename_i outside
    refine kept fun k hk hp => outside ?_
    have pixel := (pack_deg0_row_pixel_iff hbx hrow).1 hp
    omega

/-! ### CLEAR (R109) -/

/-- GETPIX sees no pixel in the zero memory. -/
theorem pixelAt_zeroMemory {s : State} (h : s.fb = zeroMemory) (x y : Int) : pixelAt s x y = false := by
  cases hp : pack s.cfg s.rot x y with
  | none => exact pixelAt_of_pack_none hp
  | some p => rw [pixelAt_of_pack hp, h, fbBit_zeroMemory]

/-- Settles O28: CLEAR leaves the zero memory, in a state that still admits GETPIX. -/
theorem clearZeroesEverything : Obligations.ClearZeroesEverything := by
  intro s h
  refine ⟨_, exec_of_admits rfl h, rfl, readByte_zeroMemory, fun x y => ?_⟩
  rw [← pixelAt_zeroMemory (s := effect .clear s) rfl x y]
  exact exec_of_admits rfl (admits_effect rfl h)

end Sys2Proof.Machine
end

section
/-! PROOF. Zoom expansion bit by bit (spec/41_zoom_expander.md R131 to R137): at every legal zoom, row
`8 * k + j` of the expanded byte shows row `(8 * k + j) / z` of the byte. Every other fact about `expand`
follows from that one, `getLsbD_expand`. -/

namespace Sys2Proof.Machine

open Sys2Proof.Claims

theorem legalZoom_pos {z : Nat} (hz : legalZoom z) : 0 < z := by
  unfold legalZoom at hz
  omega

/-! ### The tables (R131, R132) -/

theorem getLsbD_lut2 (n : BitVec 4) {j : Nat} (hj : j < 8) :
    (lut2 n).getLsbD j = n.getLsbD (j / 2) := by
  have table : ∀ (n : BitVec 4) (j : Fin 8), (lut2 n).getLsbD j = n.getLsbD (j / 2) := by decide
  exact table n ⟨j, hj⟩

theorem getLsbD_lut4 (n : BitVec 2) {j : Nat} (hj : j < 8) :
    (lut4 n).getLsbD j = n.getLsbD (j / 4) := by
  have table : ∀ (n : BitVec 2) (j : Fin 8), (lut4 n).getLsbD j = n.getLsbD (j / 4) := by decide
  exact table n ⟨j, hj⟩

/-- At zoom 8 one bit fills a whole byte (R133). -/
theorem getLsbD_fill (n : BitVec 1) {j : Nat} (hj : j < 8) :
    (if n = 1#1 then 0xFF#8 else 0x00#8).getLsbD j = n.getLsbD 0 := by
  have table : ∀ (n : BitVec 1) (j : Fin 8),
      (if n = 1#1 then 0xFF#8 else 0x00#8).getLsbD j = n.getLsbD 0 := by decide
  exact table n ⟨j, hj⟩

/-! ### One formula for every zoom (R133, R134) -/

/-- A row of a zoomed byte is a row of the byte. -/
theorem zoomedRow_lt {z k j : Nat} (hk : k < z) (hj : j < 8) : (8 * k + j) / z < 8 :=
  Nat.div_lt_of_lt_mul (by omega)

theorem getLsbD_expand {z k j : Nat} (hz : legalZoom z) (hk : k < z) (hj : j < 8) (v : Byte) :
    (expand z k v).getLsbD j = v.getLsbD ((8 * k + j) / z) := by
  obtain rfl | rfl | rfl | rfl := hz
  · obtain rfl : k = 0 := by omega
    simp [expand]
  · have row : (8 * k + j) / 2 = k * 4 + j / 2 := by omega
    have inNibble : j / 2 < 4 := by omega
    simp [expand, groupBits, getLsbD_lut2 _ hj, row, inNibble]
  · have row : (8 * k + j) / 4 = k * 2 + j / 4 := by omega
    have inPair : j / 4 < 2 := by omega
    simp [expand, groupBits, getLsbD_lut4 _ hj, row, inPair]
  · have row : (8 * k + j) / 8 = k := by omega
    simp [expand, groupBits, getLsbD_fill _ hj, row]

theorem expand_not {z k : Nat} (hz : legalZoom z) (hk : k < z) (v : Byte) :
    expand z k (~~~v) = ~~~(expand z k v) := by
  refine BitVec.eq_of_getLsbD_eq fun j hj => ?_
  rw [BitVec.getLsbD_not, getLsbD_expand hz hk hj, getLsbD_expand hz hk hj, BitVec.getLsbD_not,
    decide_eq_true hj, decide_eq_true (zoomedRow_lt hk hj)]

@[simp] theorem length_expandSeq (z : Nat) (v : Byte) : (expandSeq z v).length = z := by
  simp [expandSeq]

theorem getElem?_expandSeq {z k : Nat} (hk : k < z) (v : Byte) :
    (expandSeq z v)[k]? = some (expand z k v) := by
  simp [expandSeq, hk]

/-- Settles O32: the bit formula, the parts in order, and the complement bit by bit. -/
theorem expandReplicatesRows : Obligations.ExpandReplicatesRows := fun z _ v hz hk =>
  ⟨fun _ hj => getLsbD_expand hz hk hj v, length_expandSeq z v, getElem?_expandSeq hk v,
    expand_not hz hk v⟩

/-- Settles O33: row `r * z` is bit `r * z % 8` of part `r * z / 8`, and `r * z / z` is `r`. -/
theorem samplingRoundTrip : Obligations.SamplingRoundTrip := by
  intro z b column hz parts r hr
  have part : r * z / 8 < z := Nat.div_lt_of_lt_mul (Nat.mul_lt_mul_of_pos_right hr (legalZoom_pos hz))
  have bit : r * z % 8 < 8 := Nat.mod_lt _ (by decide)
  calc column (r * z) = column (8 * (r * z / 8) + r * z % 8) := by rw [Nat.div_add_mod]
    _ = (expand z (r * z / 8) b).getLsbD (r * z % 8) := parts _ _ part bit
    _ = b.getLsbD (r * z / z) := by rw [getLsbD_expand hz part bit, Nat.div_add_mod]
    _ = b.getLsbD r := by rw [Nat.mul_div_cancel r (legalZoom_pos hz)]

/-! ### The framebuffer through the zoom (R136) -/

/-- The logical row at bit `j` of physical page `p`: page `p / z`, and there the row that part `p % z` shows
at its bit `j`. -/
theorem logicalRow_eq {z : Nat} (hz : 0 < z) (p j : Nat) :
    (8 * p + j) / z = 8 * (p / z) + (8 * (p % z) + j) / z := by
  have split : 8 * p + j = 8 * (p % z) + j + z * (8 * (p / z)) := by
    conv_lhs => rw [← Nat.div_add_mod p z]
    ring
  rw [split, Nat.add_mul_div_left _ _ hz, Nat.add_comm]

/-- Settles O34: PhysByte reads the byte of the logical row's page, and `expand` picks the row's bit. -/
theorem physByteShowsTheZoomedPixel : Obligations.PhysByteShowsTheZoomedPixel := by
  intro c m p x j hc hj
  obtain ⟨hz, -⟩ := hc
  have part : p % c.zoom.toNat < c.zoom.toNat := Nat.mod_lt _ (legalZoom_pos hz)
  have row := logicalRow_eq (legalZoom_pos hz) p j
  have inByte := zoomedRow_lt part hj
  have page : (8 * p + j) / c.zoom.toNat / 8 = p / c.zoom.toNat := by
    rw [row, Nat.mul_add_div (by decide), Nat.div_eq_of_lt inByte, Nat.add_zero]
  have bit : (8 * p + j) / c.zoom.toNat % 8 = (8 * (p % c.zoom.toNat) + j) / c.zoom.toNat := by
    rw [row, Nat.mul_add_mod, Nat.mod_eq_of_lt inByte]
  rw [bufferPixel, byteIndex, bitIndex, page, bit]
  exact getLsbD_expand hz part hj _

end Sys2Proof.Machine
end

section
/-! PROOF. BLIT (spec/41_zoom_expander.md R139, R140): its window in the empty and the non-empty case, the
bitmap bytes it looks at, and that a stream shows of its source only the window. -/

namespace Sys2Proof.Machine

open Sys2Proof.Claims

/-! ### The window -/

theorem blitWindow_eq_none {c : Config} {px py bw bh : Nat}
    (h : bw = 0 ∨ bh = 0 ∨ c.physW.toNat ≤ px ∨ physPages c ≤ py / 8) :
    blitWindow c px py bw bh = none := by
  rw [blitWindow_eq, if_pos (by omega)]

theorem blitWindow_eq_some {c : Config} {px py bw bh : Nat} (hbw : bw ≠ 0) (hbh : bh ≠ 0)
    (hpx : px < c.physW.toNat) (hpy : py / 8 < physPages c) (hz : 0 < c.zoom.toNat) :
    blitWindow c px py bw bh =
      some ⟨py / 8, min (py / 8 + (bh + 7) / 8 * c.zoom.toNat) (physPages c) - 1,
        px, min (px + bw * c.zoom.toNat) c.physW.toNat - 1⟩ := by
  have width : 0 < bw * c.zoom.toNat := Nat.mul_pos (Nat.pos_of_ne_zero hbw) hz
  have height : 0 < (bh + 7) / 8 * c.zoom.toNat := Nat.mul_pos (by omega) hz
  rw [blitWindow_eq, if_neg (by omega)]
  congr 2 <;> omega

theorem blitBytes_of_none {s : State} {px py bw bh : Nat} (h : blitWindow s.cfg px py bw bh = none)
    (mirror invert : Bool) : blitBytes s px py bw bh mirror invert = [] := by
  simp only [blitBytes, h]

theorem blitBytes_of_some {s : State} {px py bw bh : Nat} {win : Window}
    (h : blitWindow s.cfg px py bw bh = some win) (mirror invert : Bool) :
    blitBytes s px py bw bh mirror invert =
      stream s.cfg s.variant win (blitByte s px py bw mirror invert) := by
  simp only [blitBytes, h]

/-- Settles O35: BLIT appends `blitBytes`, by whether its window is empty. -/
theorem blitSendsTheExpandedBitmap : Obligations.BlitSendsTheExpandedBitmap := by
  intro s px py bw bh mirror invert h
  refine ⟨_, exec_of_admits rfl h, rfl, fun empty => ?_, fun hbw hbh hpx hpy hz => ?_⟩
  · rw [effect_tx, sentBytes, blitBytes_of_none (blitWindow_eq_none empty), List.append_nil]
  · rw [effect_tx, sentBytes, blitBytes_of_some (blitWindow_eq_some hbw hbh hpx hpy hz)]
    rfl

/-! ### What is read -/

theorem Window.mem_pages {win : Window} {p : Nat} (h : p ∈ win.pages) : win.p0 ≤ p ∧ p ≤ win.p1 := by
  simp only [Window.pages, List.mem_range'_1] at h
  omega

theorem Window.mem_columns {win : Window} {x : Nat} (h : x ∈ win.columns) :
    win.x0 ≤ x ∧ x ≤ win.x1 := by
  simp only [Window.columns, List.mem_range'_1] at h
  omega

/-- A stream calls its source on the window only (R170). -/
theorem stream_congr (c : Config) (variant : Variant) {win : Window} {f g : Nat → Nat → Byte}
    (h : ∀ p ∈ win.pages, ∀ x ∈ win.columns, f p x = g p x) :
    stream c variant win f = stream c variant win g := by
  have rows : ∀ p ∈ win.pages,
      (win.columns.map fun x => TxByte.data (f p x)) = win.columns.map fun x => TxByte.data (g p x) :=
    fun p hp => List.map_congr_left fun x hx => congrArg TxByte.data (h p hp x hx)
  simp only [stream]
  congr 1
  exact List.flatMap_congr fun p hp => by rw [rows p hp]

/-- A mirrored row has the same columns (R140). -/
theorem sourceColumn_lt {column bw : Nat} (h : column < bw) (mirror : Bool) :
    (if mirror then bw - 1 - column else column) < bw := by
  split <;> omega

/-- In BLIT's window the source index lies in the bitmap's `SP * bw` bytes (R139, R140). -/
theorem blitIndex_lt {c : Config} {px py bw bh : Nat} {win : Window}
    (h : blitWindow c px py bw bh = some win) (mirror : Bool) {p x : Nat} (hp : p ∈ win.pages)
    (hx : x ∈ win.columns) : blitIndex c px py bw mirror p x < (bh + 7) / 8 * bw := by
  obtain ⟨hp0, hx0, -, -, -, -, hp1, hx1⟩ := blitWindow_some h
  obtain ⟨p_lo, p_hi⟩ := Window.mem_pages hp
  obtain ⟨x_lo, x_hi⟩ := Window.mem_columns hx
  have page : (p - py / 8) / zoomFactor c < (bh + 7) / 8 :=
    Nat.div_lt_of_lt_mul (by rw [Nat.mul_comm, zoomFactor]; omega)
  have column : (x - px) / zoomFactor c < bw :=
    Nat.div_lt_of_lt_mul (by rw [Nat.mul_comm, zoomFactor]; omega)
  calc blitIndex c px py bw mirror p x
      < (p - py / 8) / zoomFactor c * bw + bw := Nat.add_lt_add_left (sourceColumn_lt column mirror) _
    _ = ((p - py / 8) / zoomFactor c + 1) * bw := (Nat.succ_mul _ _).symm
    _ ≤ (bh + 7) / 8 * bw := Nat.mul_le_mul_right bw page

/-- BLIT's bytes depend on the configuration, VARIANT and the first `SP * bw` bytes of the bitmap. -/
theorem blitBytes_congr {s s' : State} (hcfg : s'.cfg = s.cfg) (hvariant : s'.variant = s.variant)
    {px py bw bh : Nat} (hbmp : ∀ i, i < (bh + 7) / 8 * bw → readBitmap s' i = readBitmap s i)
    (mirror invert : Bool) :
    blitBytes s' px py bw bh mirror invert = blitBytes s px py bw bh mirror invert := by
  cases hwin : blitWindow s.cfg px py bw bh with
  | none => rw [blitBytes_of_none hwin, blitBytes_of_none (hcfg ▸ hwin)]
  | some win =>
    rw [blitBytes_of_some hwin, blitBytes_of_some (hcfg ▸ hwin), hcfg, hvariant]
    refine stream_congr _ _ fun p hp x hx => ?_
    simp only [blitByte, hcfg, hbmp _ (blitIndex_lt hwin mirror hp hx)]

/-- Settles O36: both states append `blitBytes`, which look at nothing beyond the bitmap. -/
theorem blitReadsOnlyItsBitmap : Obligations.BlitReadsOnlyItsBitmap := by
  intro s s' t px py bw bh mirror invert _ h' hcfg hvariant hbmp h
  obtain ⟨-, rfl⟩ := exec_next_iff.1 h
  refine ⟨_, blitBytes s px py bw bh mirror invert, exec_of_admits rfl h', effect_tx _ s, ?_⟩
  rw [← blitBytes_congr hcfg hvariant hbmp]
  exact effect_tx _ s'

end Sys2Proof.Machine
end

section
/-! PROOF. BEGIN (spec/42_transfer_sequencer.md R160): its check is VALIDCFG and the capacity as R9 writes
them, and with its admission that decides which of its four outcomes it has. -/

namespace Sys2Proof.Machine

open Sys2Proof.Claims

/-- The executable check is VALIDCFG as R9 writes it. -/
theorem configValid_iff_validCfg (c : Config) : configValid c = true ↔ validCfg c := by
  simp only [configValid, Bool.and_eq_true, Bool.or_eq_true, beq_iff_eq, decide_eq_true_eq, and_assoc,
    or_assoc]
  rfl

theorem configUsable_iff (c : Config) :
    configUsable c = true ↔ validCfg c ∧ fbSizeOf c ≤ c.fbCapacity := by
  rw [configUsable, Bool.and_eq_true, configValid_iff_validCfg, decide_eq_true_iff,
    fbSize_eq_fbSizeOf]

theorem configUsable_eq_false_iff (c : Config) :
    configUsable c = false ↔ ¬ validCfg c ∨ c.fbCapacity < fbSizeOf c := by
  rw [← Bool.not_eq_true, configUsable_iff, not_and_or, Nat.not_le]

theorem refuses_begin_of_ready {s : State} (hf : s.failed = false) (hp : s.phase = .ready) (vcc : Vcc)
    (variant : Variant) : refuses (.begin vcc variant) s = some .beginWhenReady := by
  simp [refuses, isBegin, refusesBegin, hf, hp]

/-- Settles O16: FAILED, then PHASE, then the check of the configuration. -/
theorem beginOutcomes : Obligations.BeginOutcomes := by
  intro s vcc variant
  refine ⟨fun hf => ?_, fun hf hp => ?_, fun hf hp => ⟨fun bad => ?_, fun valid fits => ?_⟩⟩
  · rw [exec_eq, refuses_of_failed _ hf]; rfl
  · rw [exec_eq, refuses_begin_of_ready hf hp]; rfl
  · refine (execBegin_of_admitted hp hf vcc variant).trans ?_
    rw [(configUsable_eq_false_iff _).2 bad]
    rfl
  · refine (execBegin_of_admitted hp hf vcc variant).trans ?_
    rw [(configUsable_iff _).2 ⟨valid, fits⟩]
    rfl

end Sys2Proof.Machine
end

section
/-! PROOF. `Stream` (spec/42_transfer_sequencer.md R166 to R170): the commands of each variant, the place of
every byte, and how many bytes are data and how many commands. The data bytes are the raster of the
window, whatever the variant. -/

namespace Sys2Proof.Machine

open Sys2Proof.Claims

/-! ### The commands of a window (R166 to R168) -/

/-- The low four bits of a column or page, as arithmetic and as bits. -/
theorem ofNat_mod_sixteen (n : Nat) : BitVec.ofNat 8 (n % 16) = BitVec.ofNat 8 n &&& 0x0F := by
  refine BitVec.eq_of_toNat_eq ?_
  have low : n % 256 &&& 15 = n % 256 % 16 := Nat.and_two_pow_sub_one_eq_mod (n % 256) 4
  calc (BitVec.ofNat 8 (n % 16)).toNat = n % 16 % 256 := rfl
    _ = n % 256 % 16 := by omega
    _ = n % 256 &&& 15 := low.symm

/-- The four bits above them; what passes 8 bits is lost. -/
theorem ofNat_div_sixteen_mod_sixteen (n : Nat) :
    BitVec.ofNat 8 (n / 16 % 16) = BitVec.ofNat 8 n >>> 4 := by
  refine BitVec.eq_of_toNat_eq ?_
  rw [BitVec.toNat_ushiftRight, BitVec.toNat_ofNat, BitVec.toNat_ofNat, Nat.shiftRight_eq_div_pow]
  omega

theorem lowColumn_eq (c : Config) (x0 : Nat) :
    lowColumn c x0 = c.cmdSetLowColumn ||| (BitVec.ofNat 8 (x0 + c.shColOffset) &&& 0x0F) := by
  rw [lowColumn, ofNat_mod_sixteen]

theorem highColumn_eq (c : Config) (x0 : Nat) :
    highColumn c x0 = c.cmdSetHighColumn ||| (BitVec.ofNat 8 (x0 + c.shColOffset) >>> 4) := by
  rw [highColumn, ofNat_div_sixteen_mod_sixteen]

/-- Settles O42, by the variant and SH_PER_PAGE, with the column commands and the page in bit form. -/
theorem windowCommandsByVariant : Obligations.WindowCommandsByVariant := by
  intro c p0 p1 x0 x1 p lo hi
  have hlo : lowColumn c x0 = lo := lowColumn_eq c x0
  have hhi : highColumn c x0 = hi := highColumn_eq c x0
  refine ⟨rfl, rfl, fun h => ⟨?_, ?_⟩, fun h => ⟨?_, ?_⟩⟩
  · simp [windowCommands, asCommands, h, hlo, hhi]
  · simp [pagePrefix, h]
  · simp [windowCommands, h]
  · simp [pagePrefix, asCommands, h, hlo, hhi, ofNat_mod_sixteen]

/-! ### The place of every byte (R170) -/

/-- What a stream appends for page `p`: its commands and its data bytes, left to right. -/
def pageBytes (c : Config) (variant : Variant) (win : Window) (f : Nat → Nat → Byte) (p : Nat) :
    List TxByte :=
  pagePrefix c variant p win.x0 ++ win.columns.map fun x => .data (f p x)

theorem stream_eq (c : Config) (variant : Variant) (win : Window) (f : Nat → Nat → Byte) :
    stream c variant win f =
      windowCommands c variant win ++ win.pages.flatMap (pageBytes c variant win f) := rfl

theorem Window.length_columns {win : Window} (h : win.x0 ≤ win.x1) :
    win.columns.length = win.x1 - win.x0 + 1 := by
  rw [Window.columns, List.length_range']
  omega

theorem length_pageBytes (c : Config) (variant : Variant) {win : Window} (h : win.x0 ≤ win.x1)
    (f : Nat → Nat → Byte) (p : Nat) : (pageBytes c variant win f p).length =
      (pagePrefix c variant win.p0 win.x0).length + (win.x1 - win.x0 + 1) := by
  rw [pageBytes, List.length_append, List.length_map, Window.length_columns h,
    pagePrefix_length c variant p win.p0]

/-- Behind the commands of a page its columns stand left to right. -/
theorem getElem?_pageBytes_data (c : Config) (variant : Variant) {win : Window} (f : Nat → Nat → Byte)
    (p : Nat) {x : Nat} (h0 : win.x0 ≤ x) (h1 : x ≤ win.x1) :
    (pageBytes c variant win f p)[(pagePrefix c variant win.p0 win.x0).length + (x - win.x0)]? =
      some (.data (f p x)) := by
  have column : win.columns[x - win.x0]? = some x := by
    rw [Window.columns, List.getElem?_range' (by omega)]
    congr 1
    omega
  rw [pageBytes, pagePrefix_length c variant win.p0 p, List.getElem?_append_right (Nat.le_add_right ..),
    Nat.add_sub_cancel_left, List.getElem?_map, column, Option.map_some]

/-- Settles O43: after the window commands a stream is one list per page, all of one length, and in each
the page's own commands come first. -/
theorem streamIsTheRaster : Obligations.StreamIsTheRaster := by
  intro c variant win f hp hx head lead width
  obtain ⟨total, place⟩ := flatMap_range'_index (pageBytes c variant win f) (lead + width) win.p0
    (win.p1 + 1 - win.p0) (length_pageBytes c variant hx f)
  have onPage (p k : Nat) (h0 : win.p0 ≤ p) (h1 : p ≤ win.p1) (hk : k < lead + width) :
      (stream c variant win f)[head + (p - win.p0) * (lead + width) + k]? =
        (pageBytes c variant win f p)[k]? := by
    rw [stream_eq, Nat.add_assoc, List.getElem?_append_right (Nat.le_add_right ..),
      Nat.add_sub_cancel_left, Window.pages, place (p - win.p0) (by omega) k hk,
      Nat.add_sub_cancel' h0]
  refine ⟨?_, List.take_left, fun p h0 h1 => ⟨fun j hj => ?_, fun x hx0 hx1 => ?_⟩⟩
  · rw [stream_eq, List.length_append, Window.pages, total, Nat.sub_add_comm hp]
  · rw [onPage p j h0 h1 (by omega), pageBytes, List.getElem?_append_left]
    rwa [pagePrefix_length c variant p win.p0]
  · rw [Nat.add_assoc, onPage p _ h0 h1 (by omega)]
    exact getElem?_pageBytes_data c variant f p hx0 hx1

/-! ### Data bytes and command bytes (R169, R170) -/

theorem dataBytes_append (l l' : List TxByte) : dataBytes (l ++ l') = dataBytes l ++ dataBytes l' := by
  rw [dataBytes, List.filter_append, List.map_append]
  rfl

theorem dataBytes_flatMap (l : List Nat) (g : Nat → List TxByte) :
    dataBytes (l.flatMap g) = l.flatMap fun p => dataBytes (g p) := by
  rw [dataBytes, List.filter_flatMap, List.map_flatMap]
  rfl

theorem dataBytes_map_data (l : List Nat) (g : Nat → Byte) :
    dataBytes (l.map fun x => .data (g x)) = l.map g := by
  induction l with
  | nil => rfl
  | cons x xs ih => exact congrArg (g x :: ·) ih

/-- Every byte of TX is a command or data. -/
theorem length_commandBytes_add_length_dataBytes (l : List TxByte) :
    (commandBytes l).length + (dataBytes l).length = l.length := by
  rw [commandBytes, dataBytes, List.length_map, List.length_map, Nat.add_comm]
  exact (List.length_eq_length_filter_add _).symm

theorem dataBytes_windowCommands (c : Config) (variant : Variant) (win : Window) :
    dataBytes (windowCommands c variant win) = [] := by
  cases variant with
  | ssd1306 => rfl
  | sh1106 => unfold windowCommands; cases c.shPerPage <;> rfl

theorem dataBytes_pagePrefix (c : Config) (variant : Variant) (p x0 : Nat) :
    dataBytes (pagePrefix c variant p x0) = [] := by
  cases variant with
  | ssd1306 => rfl
  | sh1106 => unfold pagePrefix; cases c.shPerPage <;> rfl

/-- The data bytes of a stream are the raster of its window, whatever the variant (R169, R170). -/
theorem dataBytes_stream (c : Config) (variant : Variant) (win : Window) (f : Nat → Nat → Byte) :
    dataBytes (stream c variant win f) = win.pages.flatMap fun p => win.columns.map (f p) := by
  have onePage (p : Nat) : dataBytes (pageBytes c variant win f p) = win.columns.map (f p) := by
    rw [pageBytes, dataBytes_append, dataBytes_pagePrefix, dataBytes_map_data, List.nil_append]
  simp only [stream_eq, dataBytes_append, dataBytes_windowCommands, dataBytes_flatMap, onePage,
    List.nil_append]

theorem length_dataBytes_stream (c : Config) (variant : Variant) {win : Window} (hp : win.p0 ≤ win.p1)
    (hx : win.x0 ≤ win.x1) (f : Nat → Nat → Byte) :
    (dataBytes (stream c variant win f)).length = (win.p1 - win.p0 + 1) * (win.x1 - win.x0 + 1) := by
  obtain ⟨total, -⟩ := flatMap_range'_index (fun p => win.columns.map (f p)) (win.x1 - win.x0 + 1)
    win.p0 (win.p1 + 1 - win.p0) fun p => by rw [List.length_map, Window.length_columns hx]
  rw [dataBytes_stream, Window.pages, total, Nat.sub_add_comm hp]

/-- What is not data: the window commands and those of each page. -/
theorem length_commandBytes_stream (c : Config) (variant : Variant) {win : Window}
    (hp : win.p0 ≤ win.p1) (hx : win.x0 ≤ win.x1) (f : Nat → Nat → Byte) :
    (commandBytes (stream c variant win f)).length = (windowCommands c variant win).length +
      (win.p1 - win.p0 + 1) * (pagePrefix c variant win.p0 win.x0).length := by
  obtain ⟨total, -⟩ := streamIsTheRaster c variant win f hp hx
  have both := length_commandBytes_add_length_dataBytes (stream c variant win f)
  rw [total, length_dataBytes_stream c variant hp hx f, Nat.mul_add _ _ (win.x1 - win.x0 + 1),
    ← Nat.add_assoc] at both
  exact Nat.add_right_cancel both

/-- The first two columns of the first page come first. -/
theorem dataBytes_stream_first_two (c : Config) (variant : Variant) {win : Window}
    (hp : win.p0 ≤ win.p1) (hx : win.x0 < win.x1) (f : Nat → Nat → Byte) :
    ∃ later, dataBytes (stream c variant win f) =
      f win.p0 win.x0 :: f win.p0 (win.x0 + 1) :: later := by
  have pages : win.p1 + 1 - win.p0 = win.p1 - win.p0 + 1 := Nat.sub_add_comm hp
  have columns : win.x1 + 1 - win.x0 = win.x1 - win.x0 - 1 + 1 + 1 := by omega
  rw [dataBytes_stream, Window.pages, Window.columns, pages, columns]
  simp only [List.range'_succ, List.flatMap_cons, List.map_cons, List.cons_append]
  exact ⟨_, rfl⟩

end Sys2Proof.Machine
end

section
/-! PROOF. `Region` (spec/42_transfer_sequencer.md R164): the rectangle clipped to the panel, rows rounded
outward to pages. On a legal panel the region of the whole panel is XFERFULL's window (R162). -/

namespace Sys2Proof.Machine

open Sys2Proof.Claims

/-! ### One side of a rectangle, clipped to a panel of `n` -/

/-- A side that starts at `a` and has length `l` has a place on the panel. -/
def sideMeets (n : Nat) (a l : Int) : Prop := max a 0 < min (a + l) n

theorem sideMeets_iff (n : Nat) (a l : Int) :
    sideMeets n a l ↔ ∃ k : Nat, k < n ∧ a ≤ k ∧ (k : Int) < a + l := by
  refine ⟨fun h => ⟨(max a 0).toNat, ?_⟩, fun ⟨k, hk⟩ => ?_⟩
  · unfold sideMeets at h
    omega
  · unfold sideMeets
    omega

/-- Its first and last place on the panel enclose exactly its places on the panel. -/
theorem between_clipped_iff {n : Nat} {a l : Int} (h : sideMeets n a l) (k : Nat) :
    ((max a 0).toNat ≤ k ∧ k ≤ (min (a + l) n - 1).toNat) ↔ k < n ∧ a ≤ k ∧ (k : Int) < a + l := by
  unfold sideMeets at h
  omega

theorem clipped_le {n : Nat} {a l : Int} (h : sideMeets n a l) :
    (max a 0).toNat ≤ (min (a + l) n - 1).toNat := by
  unfold sideMeets at h
  omega

/-- Rows rounded outward to pages (R164): the pages from that of row `a` to that of row `b` are those that
hold a row from `a` to `b`. -/
theorem between_pages_iff {a b : Nat} (h : a ≤ b) (p : Nat) :
    (a / 8 ≤ p ∧ p ≤ b / 8) ↔ ∃ row, row / 8 = p ∧ a ≤ row ∧ row ≤ b := by
  refine ⟨fun hp => ⟨max a (8 * p), ?_⟩, fun ⟨row, hrow⟩ => ?_⟩ <;> omega

/-- The last row of a panel is in its last page. -/
theorem lastRow_div_eight {n : Nat} (h : 0 < n) : (n - 1) / 8 = ceilDiv8 n - 1 := by
  unfold ceilDiv8
  omega

/-! ### The region -/

theorem region_eq_none {c : Config} {x y w h : Int}
    (empty : ¬ (sideMeets c.physW.toNat x w ∧ sideMeets c.physH.toNat y h)) :
    region c x y w h = none := by
  unfold sideMeets at empty
  rw [region_eq, if_pos (by omega)]

theorem region_eq_some {c : Config} {x y w h : Int} (hx : sideMeets c.physW.toNat x w)
    (hy : sideMeets c.physH.toNat y h) :
    region c x y w h = some ⟨(max y 0).toNat / 8, (min (y + h) c.physH.toNat - 1).toNat / 8,
      (max x 0).toNat, (min (x + w) c.physW.toNat - 1).toNat⟩ := by
  unfold sideMeets at hx hy
  rw [region_eq, if_neg (by omega)]

/-- Settles O40: by whether both sides meet the panel, and then side by side. -/
theorem regionIsTheClippedRectangle : Obligations.RegionIsTheClippedRectangle := by
  intro c x y w h
  by_cases meets : sideMeets c.physW.toNat x w ∧ sideMeets c.physH.toNat y h
  case pos =>
    obtain ⟨hx, hy⟩ := meets
    obtain ⟨col, hcol, hcol0, hcol1⟩ := (sideMeets_iff _ _ _).1 hx
    obtain ⟨row, hrow, hrow0, hrow1⟩ := (sideMeets_iff _ _ _).1 hy
    rw [region_eq_some hx hy]
    refine ⟨iff_of_false (nomatch ·) fun noPixel =>
      noPixel col row hcol hrow ⟨hcol0, hcol1, hrow0, hrow1⟩, ?_⟩
    rintro win ⟨⟩
    refine ⟨Nat.div_le_div_right (clipped_le hy), ?_, clipped_le hx, by dsimp only; omega,
      fun p => ?_, between_clipped_iff hx⟩
    · rw [physPages, ← lastRow_div_eight (show 0 < physHeight c from Nat.zero_lt_of_lt hrow)]
      exact Nat.div_le_div_right (by rw [physHeight]; omega)
    · simp only [between_pages_iff (clipped_le hy), between_clipped_iff hy]
  case neg =>
    rw [region_eq_none meets]
    refine ⟨iff_of_true rfl fun col row hcol hrow ⟨hcol0, hcol1, hrow0, hrow1⟩ => meets ?_, nofun⟩
    exact ⟨(sideMeets_iff _ _ _).2 ⟨col, hcol, hcol0, hcol1⟩,
      (sideMeets_iff _ _ _).2 ⟨row, hrow, hrow0, hrow1⟩⟩

/-- The region of the whole panel is the window of XFERFULL (R162). -/
theorem region_whole_panel {c : Config} (hw : 0 < c.physW.toNat) (hh : 0 < c.physH.toNat) :
    region c 0 0 c.physW.toNat c.physH.toNat = some (fullWindow c) := by
  have lastPage : (c.physH.toNat - 1) / 8 = physPages c - 1 := lastRow_div_eight hh
  rw [region_eq_some (by unfold sideMeets; omega) (by unfold sideMeets; omega), fullWindow, ← lastPage,
    physWidth]
  congr 2 <;> omega

end Sys2Proof.Machine
end

section
/-! PROOF. XFERFULL, XFERRGN and BLIT as operations (spec/42_transfer_sequencer.md R162, R163, R169, R172):
the one stream each appends, its byte counts, and what the variant cannot change. -/

namespace Sys2Proof.Machine

open Sys2Proof.Claims

theorem regionBytes_of_none {s : State} {x y w h : Int} (hr : region s.cfg x y w h = none) :
    regionBytes s x y w h = [] := by
  simp only [regionBytes, hr]

theorem regionBytes_of_some {s : State} {x y w h : Int} {win : Window}
    (hr : region s.cfg x y w h = some win) :
    regionBytes s x y w h = stream s.cfg s.variant win (physByte s.cfg s.fb) := by
  simp only [regionBytes, hr]

/-- Settles O38: both operations append `sentBytes`, XFERRGN by whether its region is empty. -/
theorem transfersSendOneStream : Obligations.TransfersSendOneStream := by
  intro s h
  refine ⟨exec_of_admits rfl h, fun x y w hh => ⟨fun hr => ?_, fun win hr => ?_⟩⟩
  · rw [exec_of_admits rfl h, effect, regionBytes_of_none hr, State.send, List.append_nil]
    rfl
  · rw [exec_of_admits rfl h, effect, regionBytes_of_some hr]
    rfl

/-- Settles O39: the region is XFERFULL's window, so the two have one effect, and one admission. -/
theorem xferfullIsTheWholeRegion : Obligations.XferfullIsTheWholeRegion := by
  intro s valid
  obtain ⟨-, hw, hh, -⟩ := valid
  rw [exec_eq, exec_eq, effect, effect, regionBytes_of_some (region_whole_panel hw hh)]
  rfl

theorem fullWindow_page_count {c : Config} (hh : 0 < c.physH.toNat) :
    (fullWindow c).p1 - (fullWindow c).p0 + 1 = physPages c :=
  Nat.sub_add_cancel (show 0 < (c.physH.toNat + 7) / 8 by omega)

theorem fullWindow_column_count {c : Config} (hw : 0 < c.physW.toNat) :
    (fullWindow c).x1 - (fullWindow c).x0 + 1 = c.physW.toNat := Nat.sub_add_cancel hw

/-- Settles O44: XFERFULL's window has NPP pages and PHYS_W columns; the commands by the variant. -/
theorem xferfullByteCounts : Obligations.XferfullByteCounts := by
  intro s valid h
  obtain ⟨-, hw, hh, -⟩ := valid
  refine ⟨_, _, exec_of_admits rfl h, effect_tx _ s, ?_, ?_⟩
  · rw [sentBytes, length_dataBytes_stream _ _ (Nat.zero_le _) (Nat.zero_le _),
      fullWindow_page_count hh, fullWindow_column_count hw]
  · rw [sentBytes, length_commandBytes_stream _ _ (Nat.zero_le _) (Nat.zero_le _),
      fullWindow_page_count hh]
    cases s.variant with
    | ssd1306 => rfl
    | sh1106 => cases hs : s.cfg.shPerPage <;> simp [windowCommands, pagePrefix, hs, Nat.mul_comm]

/-- The three transfers append the same data bytes whatever VARIANT holds (R169). -/
theorem dataBytes_sentBytes_with_variant {i : Instr} (hi : readsVariant i = true) (s : State)
    (variant : Variant) :
    dataBytes (sentBytes i { s with variant := variant }) = dataBytes (sentBytes i s) := by
  cases i with
  | xferfull => simp only [sentBytes, dataBytes_stream]
  | xferrgn x y w h =>
    cases hr : region s.cfg x y w h with
    | none => simp only [sentBytes, regionBytes_of_none, hr]
    | some win =>
      rw [sentBytes, sentBytes, regionBytes_of_some hr, regionBytes_of_some (s := { s with variant }) hr,
        dataBytes_stream, dataBytes_stream]
  | blit px py bw bh mirror invert =>
    cases hb : blitWindow s.cfg px py bw bh with
    | none => simp only [sentBytes, blitBytes_of_none, hb]
    | some win =>
      rw [sentBytes, sentBytes, blitBytes_of_some hb, blitBytes_of_some (s := { s with variant }) hb,
        dataBytes_stream, dataBytes_stream]
      rfl
  | _ => cases hi

/-- Settles O55: the other variant admits the transfer too, and there it appends the same data bytes. -/
theorem dataBytesIgnoreTheVariant : Obligations.DataBytesIgnoreTheVariant := by
  intro i s t variant hi h
  obtain ⟨-, rfl⟩ := exec_next_iff.1 h
  exact ⟨_, _, _, exec_next_congr h rfl rfl, effect_tx i s, effect_tx i _,
    dataBytes_sentBytes_with_variant hi s variant⟩

/-! ### The first pixel (R172) -/

/-- The pixel (0, 0) at ROT 0 is bit 0 of byte 0 of FB (R51, R101, R104). -/
theorem readByte_paintPixel_origin {c : Config} (hw : 0 < logicalWidth c) (hh : 0 < logicalHeight c) :
    readByte (paintPixel c .deg0 .on zeroMemory 0 0) 0 = 0x01 := by
  have origin : pack c .deg0 0 0 = some ⟨byteIndex c 0 0, bitIndex 0⟩ := pack_of_remap rfl hw hh
  have byte0 : byteIndex c 0 0 = 0 := by rw [byteIndex, Nat.zero_div, Nat.zero_mul]
  simp only [paintPixel, origin, byte0, readByte_applyAt (m := zeroMemory) rfl]
  rfl

/-- At zoom 2 a lone pixel in the corner of byte 0 shows in the first two columns of page 0 (R136). -/
theorem physByte_zoom_two {c : Config} (hz : zoomFactor c = 2) {m : Memory} (h : readByte m 0 = 0x01)
    {x : Nat} (hx : x < 2) : physByte c m 0 x = lut2 0x1 := by
  rw [physByte, physIndex, hz, Nat.div_eq_of_lt hx, Nat.zero_div, Nat.zero_mul, h]
  rfl

/-- Settles O45: pixel (0, 0) is the one bit of byte 0, and the first two bytes of the raster show it. -/
theorem firstPixelIsATwoByTwoBlock : Obligations.FirstPixelIsATwoByTwoBlock := by
  intro s h hrot hw hh hz
  have width : physWidth s.cfg = 128 := by rw [physWidth, hw]; rfl
  have height : physHeight s.cfg = 64 := by rw [physHeight, hh]; rfl
  have zoom : zoomFactor s.cfg = 2 := by rw [zoomFactor, hz]; rfl
  have lw : logicalWidth s.cfg = 64 := by rw [logicalWidth, width, zoom]
  have lh : logicalHeight s.cfg = 32 := by rw [logicalHeight, height, zoom]
  have size : fbSize s.cfg = 256 := by rw [fbSize, logicalPages, lw, lh]; rfl
  have cleared : Admits (effect .clear s) := admits_effect rfl h
  have painted : Admits (effect (.setpix 0 0 .on) (effect .clear s)) := admits_effect rfl cleared
  have byte0 : readByte (paintPixel s.cfg s.rot .on zeroMemory 0 0) 0 = 0x01 := by
    rw [hrot, readByte_paintPixel_origin (by omega) (by omega)]
  obtain ⟨later, raster⟩ := dataBytes_stream_first_two s.cfg s.variant (win := fullWindow s.cfg)
    (Nat.zero_le _) (show 0 < physWidth s.cfg - 1 by omega)
    (physByte s.cfg (paintPixel s.cfg s.rot .on zeroMemory 0 0))
  refine ⟨lw, lh, size, _, _, _, _, later, exec_of_admits rfl h, exec_of_admits rfl cleared, byte0,
    exec_of_admits rfl painted, effect_tx _ _, raster.trans ?_, rfl⟩
  exact congrArg₂ (· :: · :: later) (physByte_zoom_two zoom byte0 Nat.zero_lt_two)
    (physByte_zoom_two zoom byte0 Nat.one_lt_two)

end Sys2Proof.Machine
end

section
/-! PROOF. Display control as operations (spec/43_display_control.md R201 to R210): an admitting state takes
each of them to its effect, whose fields are the ones the spec names. -/

namespace Sys2Proof.Machine

open Sys2Proof.Claims

/-- Settles O46: the effect of SETINV looks at its operand, never at INVERT. -/
theorem setinvSendsItsChoice : Obligations.SetinvSendsItsChoice := fun _ _ h => exec_of_admits rfl h

/-- Settles O47: the value sent and the value recorded are the one `dimValue` of R202. -/
theorem setdimSendsTheContrast : Obligations.SetdimSendsTheContrast := fun _ _ h => exec_of_admits rfl h

/-- R205: a scroll sequence has a first byte, whatever the controller's bytes are. -/
theorem scrollSeq_ne_nil (c : Config) (kind : ScrollKind) (start stop : Byte) :
    scrollSeq c kind start stop ≠ [] :=
  List.cons_ne_nil _ _

/-- Settles O48: each start has the effect `startScroll` of its own kind, pages and SCROLLING unread. -/
theorem scrollStartsSendTheirSequence : Obligations.ScrollStartsSendTheirSequence := fun s start stop h =>
  ⟨exec_of_admits rfl h, exec_of_admits rfl h, exec_of_admits rfl h, exec_of_admits rfl h,
    fun kind => scrollSeq_ne_nil s.cfg kind start stop⟩

/-- Settles O49: the effect of SCRSTOP does not look at SCROLLING. -/
theorem scrstopAlwaysSends : Obligations.ScrstopAlwaysSends := fun _ h => exec_of_admits rfl h

end Sys2Proof.Machine
end

section
/-! PROOF. The order of the refusal tests (spec/60_exceptions.md R242): FAILED, then PHASE against the kind
of operation, then BEGIN's check. The three lemmas of refusal and the one of admission cover every state,
so an operation completes exactly where it is admitted, and a step has no outcome but the listed ones. -/

namespace Sys2Proof.Machine

open Sys2Proof.Claims

/-! ### Admission by FAILED, PHASE and the kind of operation -/

theorem refuses_of_not_begun {i : Instr} (hi : isBegin i = false) {s : State} (hf : s.failed = false)
    (hp : s.phase = .uninitialized) : refuses i s = some .notBegun := by
  simp [refuses, refusesOperation, hi, hf, hp]

theorem refuses_of_begin_when_ready {i : Instr} (hi : isBegin i = true) {s : State}
    (hf : s.failed = false) (hp : s.phase = .ready) : refuses i s = some .beginWhenReady := by
  simp [refuses, refusesBegin, hi, hf, hp]

theorem refuses_none_iff {i : Instr} {s : State} :
    refuses i s = none ↔ s.failed = false ∧ (isBegin i = true ↔ s.phase = .uninitialized) := by
  cases hi : isBegin i with
  | false =>
    rw [refuses_none_iff_admits hi, Admits]
    cases s.phase <;> simp
  | true => simpa [refuses, hi, and_comm] using refusesBegin_none_iff s

theorem exec_of_refuses {i : Instr} {s : State} {r : Refusal} (h : refuses i s = some r) :
    exec i s = .refused r := by
  rw [exec_eq, h]
  rfl

/-- Settles O15: `exec` ends in a next state where nothing refuses the operation, and that is admission. -/
theorem completesIffAdmitted : Obligations.CompletesIffAdmitted := by
  intro i s
  simp only [exec_next_iff, exists_and_left, exists_eq, and_true, refuses_none_iff]

/-- Settles O13, clause by clause in the order of R242. A word is presented without touching PHASE and
FAILED, so the step's tests are those of the state before it. -/
theorem admissionOrder : Obligations.AdmissionOrder := by
  intro s w bmp rest hh
  refine ⟨fun ⟨e, he⟩ => ?_, fun i hd => ?_⟩
  · exact (step_eq_reservedEncoding_iff hh).2 (by simp [he])
  rw [step_command hh hd]
  refine ⟨fun hf => ?_, fun hf hp hi => ?_, fun hf hp hi => ?_, fun hf hp hi bad => ?_⟩
  · exact exec_of_refuses (refuses_of_failed i hf)
  · exact exec_of_refuses (refuses_of_not_begun hi hf hp)
  · exact exec_of_refuses (refuses_of_begin_when_ready hi hf hp)
  · cases i with
    | begin vcc variant =>
      obtain ⟨-, -, admitted⟩ := beginOutcomes (s.present bmp rest) vcc variant
      exact ⟨_, (admitted hf hp).1 bad, rfl, rfl⟩
    | _ => cases hi

/-! ### The outcomes of an operation and of a step (R231) -/

theorem exec_outcomes (i : Instr) (s : State) :
    (∃ t, exec i s = .next t) ∨ exec i s = .refused .notBegun ∨
      exec i s = .refused .afterFailedBegin ∨ exec i s = .refused .beginWhenReady := by
  cases hf : s.failed with
  | true => exact .inr (.inr (.inl (exec_of_refuses (refuses_of_failed i hf))))
  | false =>
    cases hi : isBegin i <;> cases hp : s.phase
    · exact .inr (.inl (exec_of_refuses (refuses_of_not_begun hi hf hp)))
    · exact .inl ⟨_, exec_of_admits hi ⟨hp, hf⟩⟩
    · exact .inl ((completesIffAdmitted i s).2 ⟨hf, by simp [hi, hp]⟩)
    · exact .inr (.inr (.inr (exec_of_refuses (refuses_of_begin_when_ready hi hf hp))))

/-- Settles O14, by the host's next event: none, a reset, a reserved word, or an operation. -/
theorem outcomesAreTheListed : Obligations.OutcomesAreTheListed := by
  intro s
  match hh : s.host with
  | [] => exact .inl ⟨s, by simp [step, hh]⟩
  | .reset w h z :: rest => exact .inl ⟨s.hostReset w h z rest, by simp [step, hh]⟩
  | .command word bmp :: rest =>
    cases hd : decode word with
    | error e => exact .inr (.inl ((step_eq_reservedEncoding_iff hh).2 (by simp [hd])))
    | ok i =>
      rw [step_command hh hd]
      exact (exec_outcomes i (s.present bmp rest)).imp_right .inr

end Sys2Proof.Machine
end

section
/-! PROOF. The two steps that run no operation (spec/70_reset_and_hazards.md R260, R261; the third kind of
step is `step_command`). What a reset leaves in each field is said by the lemmas `State.hostReset_…`. -/

namespace Sys2Proof.Machine

/-- R261: the block does nothing until the host presents an event. -/
theorem step_of_no_event {s : State} (hh : s.host = []) : step s = .next s := by
  simp only [step, hh]

/-- R260: a reset is taken in every state, whatever PHASE and FAILED are. -/
theorem step_reset {s : State} {w h : BitVec 8} {z : BitVec 4} {rest : List HostEvent}
    (hh : s.host = .reset w h z :: rest) : step s = .next (s.hostReset w h z rest) := by
  simp only [step, hh]

/-- Settles O9: with no event the step is idle, and after a reset event the next state is `hostReset`, read
field by field. -/
theorem idleAndReset : Obligations.IdleAndReset := by
  refine ⟨fun _ hh => step_of_no_event hh, fun s w h z rest hh => ?_⟩
  exact ⟨s.hostReset w h z rest, step_reset hh, State.hostReset_cfg .., State.hostReset_phase ..,
    State.hostReset_failed .., State.hostReset_scrolling .., State.hostReset_rot ..,
    State.hostReset_tx .., State.hostReset_host ..⟩

end Sys2Proof.Machine
end

section
/-! PROOF. The remap formulas and the expander's tables, as the spec prints them (spec/40_pixel_engine.md
R101; spec/41_zoom_expander.md R131, R132). -/

namespace Sys2Proof.Machine

/-- Settles O18: each formula is an arm of `remap`. -/
theorem remapFormulas : Obligations.RemapFormulas := fun _ _ _ => ⟨rfl, rfl, rfl, rfl⟩

/-- Settles O31: the bits by the tables' own lemmas, the entries by evaluation. -/
theorem tablesReplicateBits : Obligations.TablesReplicateBits :=
  ⟨fun n _ => getLsbD_lut2 n, fun n _ => getLsbD_lut4 n, by decide, by decide⟩

end Sys2Proof.Machine
end

section
/-! PROOF. Addresses inside FB (spec/20_memory.md R58): a page below LPAGES and a column below LW make an
index below FBSIZE, and a panel position divided by the zoom is such a page and column
(spec/41_zoom_expander.md R136). -/

namespace Sys2Proof.Machine

open Sys2Proof.Claims

/-- A page exists when its first row does. -/
theorem lt_ceilDiv8_iff (page n : Nat) : page < ceilDiv8 n ↔ 8 * page < n := by
  unfold ceilDiv8
  omega

theorem page_mul_add_column_lt_fbSize {c : Config} {page col : Nat} (hpage : page < logicalPages c)
    (hcol : col < logicalWidth c) : page * logicalWidth c + col < fbSize c :=
  calc page * logicalWidth c + col
      < page * logicalWidth c + logicalWidth c := Nat.add_lt_add_left hcol _
    _ = (page + 1) * logicalWidth c := (Nat.succ_mul _ _).symm
    _ ≤ fbSize c := Nat.mul_le_mul_right _ hpage

theorem div_zoom_lt_logicalWidth {c : Config} (h : validCfg c) {x : Nat} (hx : x < physWidth c) :
    x / zoomFactor c < logicalWidth c := by
  refine Nat.div_lt_of_lt_mul ?_
  rwa [Nat.mul_comm, logicalWidth_mul_zoomFactor h]

/-- The logical page shown at physical page `p` starts, scaled by the zoom, at or above the first row of
`p`, which is on the panel. -/
theorem div_zoom_lt_logicalPages {c : Config} (h : validCfg c) {p : Nat} (hp : p < physPages c) :
    p / zoomFactor c < logicalPages c := by
  refine (lt_ceilDiv8_iff _ _).2 (Nat.lt_of_mul_lt_mul_right (a := zoomFactor c) ?_)
  calc 8 * (p / zoomFactor c) * zoomFactor c
      = 8 * (p / zoomFactor c * zoomFactor c) := Nat.mul_assoc ..
    _ ≤ 8 * p := Nat.mul_le_mul_left 8 (Nat.div_mul_le_self p _)
    _ < physHeight c := (lt_ceilDiv8_iff _ _).1 hp
    _ = logicalHeight c * zoomFactor c := (logicalHeight_mul_zoomFactor h).symm

/-- Settles O20: `Pack` by its own bound, PhysByte by the page and the column that it divides out. -/
theorem indicesStayInside : Obligations.IndicesStayInside := by
  refine fun c => ⟨fun rot x y p h => ?_, fun valid p x hp hx => ?_⟩
  · obtain ⟨hidx, hbit⟩ := pack_idx_lt h
    exact ⟨hidx, Nat.le_of_lt_succ hbit⟩
  · exact page_mul_add_column_lt_fbSize (div_zoom_lt_logicalPages valid hp)
      (div_zoom_lt_logicalWidth valid hx)

end Sys2Proof.Machine
end

section
/-! PROOF. The byte-level forms of runs (spec/40_pixel_engine.md R110). A horizontal run is the same writes
one by one. A vertical run writes each page once where the pixel form writes up to eight times, so there the
two are compared bit by bit: both give the colour to the rows of the run and leave every other bit. -/

namespace Sys2Proof.Machine

open Sys2Proof.Claims

/-! ### Horizontal runs: pixel by pixel the same write -/

theorem paintPixel_deg0 {c : Config} {bx row : Nat} (hbx : bx < logicalWidth c)
    (hrow : row < logicalHeight c) (color : Color) (m : Memory) :
    paintPixel c .deg0 color m bx row =
      applyAt color m (byteIndex c bx row) (bitMask (bitIndex row)) := by
  have hp : pack c .deg0 bx row = some ⟨byteIndex c bx row, bitIndex row⟩ := pack_of_remap rfl hbx hrow
  simp only [paintPixel, hp]

theorem paintRow_eq_paintRowBytes {c : Config} {row x0 x1 : Nat} (hx : x0 ≤ x1)
    (hx1 : x1 < logicalWidth c) (hrow : row < logicalHeight c) (color : Color) (m : Memory) :
    paintRow c .deg0 color m x0 row ((x1 : Int) - x0 + 1) = paintRowBytes c color m row x0 x1 := by
  have len : ((x1 : Int) - x0 + 1).toNat = x1 + 1 - x0 := by omega
  rw [paintRow, paintRowBytes, len, List.range'_eq_map_range, List.foldl_map]
  refine List.foldl_ext _ _ _ fun m k hk => ?_
  have inRun : k < x1 + 1 - x0 := List.mem_range.1 hk
  exact paintPixel_deg0 (by omega) hrow color m

/-! ### Vertical runs: the mask of a page -/

/-- Bit `bit` of the mask of page `p` is row `8 * p + bit`, set when the run covers that row. -/
theorem getLsbD_pageMask {y0 y1 p bit : Nat} (hy : y0 ≤ y1) (hp : p ≤ y1 / 8) (hbit : bit < 8) :
    (pageMask y0 y1 p).getLsbD bit = decide (y0 ≤ 8 * p + bit ∧ 8 * p + bit ≤ y1) := by
  simp only [pageMask, BitVec.getLsbD_ofNat, Nat.testBit_mul_two_pow, Nat.testBit_two_pow_sub_one,
    decide_eq_true hbit, Bool.true_and, ← Bool.decide_and, decide_eq_decide]
  omega

/-! ### Vertical runs: each page is written once -/

theorem readByte_foldl_applyAt_of_ne {m : Memory} (hm : m.wf = true) (color : Color) (idx : Nat → Nat)
    (mask : Nat → Byte) {l : List Nat} {i : Nat} (h : ∀ p ∈ l, i ≠ idx p) :
    readByte (l.foldl (fun m p => applyAt color m (idx p) (mask p)) m) i = readByte m i := by
  induction l generalizing m with
  | nil => rfl
  | cons p l ih =>
    obtain ⟨hp, hl⟩ := List.forall_mem_cons.1 h
    rw [List.foldl_cons, ih (applyAt_wf hm color _ _) hl, readByte_applyAt hm, if_neg hp]

theorem readByte_foldl_applyAt_of_mem {m : Memory} (hm : m.wf = true) (color : Color) {idx : Nat → Nat}
    (inj : idx.Injective) (mask : Nat → Byte) {l : List Nat} (hl : l.Nodup) {p : Nat} (hp : p ∈ l) :
    readByte (l.foldl (fun m p => applyAt color m (idx p) (mask p)) m) (idx p) =
      applyColor color (readByte m (idx p)) (mask p) := by
  induction l generalizing m with
  | nil => cases hp
  | cons q l ih =>
    obtain ⟨hq, hl⟩ := List.nodup_cons.1 hl
    rw [List.foldl_cons]
    obtain rfl | hp := List.mem_cons.1 hp
    · have later_ne : ∀ r ∈ l, idx p ≠ idx r := fun r hr he => hq (inj he ▸ hr)
      rw [readByte_foldl_applyAt_of_ne (applyAt_wf hm color _ _) color idx mask later_ne,
        readByte_applyAt hm, if_pos rfl]
    · have first_ne : idx p ≠ idx q := fun he => hq (inj he ▸ hp)
      rw [ih (applyAt_wf hm color _ _) hl hp, readByte_applyAt hm, if_neg first_ne]

/-! ### Vertical runs: the bits that take the colour -/

/-- The bits of column `bx` in rows `y0..y1` (R51). -/
def ColumnBits (c : Config) (bx y0 y1 idx bit : Nat) : Prop :=
  ∃ row, y0 ≤ row ∧ row ≤ y1 ∧ byteIndex c bx row = idx ∧ bitIndex row = bit

/-- From `m` to `m'` the bits of `P` take the colour once and every other bit stays. -/
def ColorsExactly (color : Color) (P : Nat → Nat → Prop) (m m' : Memory) : Prop :=
  ∀ idx bit, bit < 8 →
    (P idx bit → fbBit m' idx bit = colored color (fbBit m idx bit)) ∧
    (¬ P idx bit → fbBit m' idx bit = fbBit m idx bit)

theorem ColorsExactly.unique {color : Color} {P : Nat → Nat → Prop} {m m₁ m₂ : Memory}
    (h₁ : ColorsExactly color P m m₁) (h₂ : ColorsExactly color P m m₂) (hwf₁ : m₁.wf = true)
    (hwf₂ : m₂.wf = true) : m₁ = m₂ := by
  refine wf_ext hwf₁ hwf₂ fun idx => BitVec.eq_of_getLsbD_eq fun bit hbit => ?_
  obtain ⟨painted₁, kept₁⟩ := h₁ idx bit hbit
  obtain ⟨painted₂, kept₂⟩ := h₂ idx bit hbit
  by_cases hP : P idx bit
  · exact (painted₁ hP).trans (painted₂ hP).symm
  · exact (kept₁ hP).trans (kept₂ hP).symm

theorem paintColumn_colorsExactly {m : Memory} (hm : m.wf = true) {c : Config} {bx y0 y1 : Nat}
    (hbx : bx < logicalWidth c) (hy1 : y1 < logicalHeight c) (color : Color) :
    ColorsExactly color (ColumnBits c bx y0 y1) m
      (paintColumn c .deg0 color m bx y0 ((y1 : Int) - y0 + 1)) := by
  have pixel (k : Nat) (hk : y0 + k ≤ y1) : pack c .deg0 bx ((y0 : Int) + k) =
      some ⟨byteIndex c bx (y0 + k), bitIndex (y0 + k)⟩ :=
    pack_of_remap rfl hbx (Nat.lt_of_le_of_lt hk hy1)
  refine fun idx bit hbit => ⟨?_, fun outside => ?_⟩
  · rintro ⟨row, h0, h1, rfl, rfl⟩
    obtain ⟨k, rfl⟩ := Nat.exists_eq_add_of_le h0
    exact fbBit_paintColumn_of_pack_eq hm color (by omega) (pixel k h1)
  · refine fbBit_paintColumn_of_pack_ne hm color hbit fun k hk hp => outside ?_
    have inRun : y0 + k ≤ y1 := by omega
    obtain ⟨hidx, hrow⟩ := PixelAddr.mk.inj (Option.some.inj ((pixel k inRun).symm.trans hp))
    exact ⟨y0 + k, Nat.le_add_right .., inRun, hidx, hrow⟩

theorem mem_runPages_iff {y0 y1 p : Nat} :
    p ∈ List.range' (y0 / 8) (y1 / 8 + 1 - y0 / 8) ↔ y0 / 8 ≤ p ∧ p ≤ y1 / 8 := by
  rw [List.mem_range'_1]
  omega

/-- A page of the run, bit by bit: its mask decides. -/
theorem fbBit_paintColumnBytes_of_mem {m : Memory} (hm : m.wf = true) {c : Config} {bx y0 y1 p bit : Nat}
    (hbx : bx < logicalWidth c) (hy : y0 ≤ y1) (hp0 : y0 / 8 ≤ p) (hp1 : p ≤ y1 / 8) (hbit : bit < 8)
    (color : Color) :
    fbBit (paintColumnBytes c color m bx y0 y1) (p * logicalWidth c + bx) bit =
      if y0 ≤ 8 * p + bit ∧ 8 * p + bit ≤ y1 then
        colored color (fbBit m (p * logicalWidth c + bx) bit)
      else fbBit m (p * logicalWidth c + bx) bit := by
  have inj : (fun p => p * logicalWidth c + bx).Injective := fun p q h =>
    Nat.eq_of_mul_eq_mul_right (Nat.zero_lt_of_lt hbx) (Nat.add_right_cancel h)
  rw [fbBit, paintColumnBytes, readByte_foldl_applyAt_of_mem hm color inj (pageMask y0 y1)
    List.nodup_range' (mem_runPages_iff.2 ⟨hp0, hp1⟩), getLsbD_applyColor _ _ _ hbit,
    getLsbD_pageMask hy hp1 hbit]
  simp only [decide_eq_true_eq]
  cases color <;> rfl

theorem paintColumnBytes_colorsExactly {m : Memory} (hm : m.wf = true) {c : Config} {bx y0 y1 : Nat}
    (hbx : bx < logicalWidth c) (hy : y0 ≤ y1) (color : Color) :
    ColorsExactly color (ColumnBits c bx y0 y1) m (paintColumnBytes c color m bx y0 y1) := by
  refine fun idx bit hbit => ⟨?_, fun outside => ?_⟩
  · rintro ⟨row, h0, h1, rfl, rfl⟩
    have inPage : 8 * (row / 8) + bitIndex row = row := Nat.div_add_mod row 8
    rw [byteIndex, fbBit_paintColumnBytes_of_mem hm hbx hy (Nat.div_le_div_right h0)
      (Nat.div_le_div_right h1) hbit, inPage, if_pos ⟨h0, h1⟩]
  · by_cases inPages : ∃ p, y0 / 8 ≤ p ∧ p ≤ y1 / 8 ∧ p * logicalWidth c + bx = idx
    case pos =>
      obtain ⟨p, hp0, hp1, rfl⟩ := inPages
      rw [fbBit_paintColumnBytes_of_mem hm hbx hy hp0 hp1 hbit, if_neg]
      rintro ⟨h0, h1⟩
      have bit_eq : bitIndex (8 * p + bit) = bit := by
        rw [bitIndex, Nat.mul_add_mod, Nat.mod_eq_of_lt hbit]
      exact outside ⟨8 * p + bit, h0, h1, byteIndex_of_page c p bx hbit, bit_eq⟩
    case neg =>
      rw [fbBit, paintColumnBytes, readByte_foldl_applyAt_of_ne hm, fbBit]
      intro p hp he
      obtain ⟨hp0, hp1⟩ := mem_runPages_iff.1 hp
      exact inPages ⟨p, hp0, hp1, he.symm⟩

theorem paintColumnBytes_wf {m : Memory} (hm : m.wf = true) (c : Config) (color : Color)
    (bx y0 y1 : Nat) : Memory.wf (paintColumnBytes c color m bx y0 y1) = true :=
  foldl_wf _ (fun _ _ hm' => applyAt_wf hm' color _ _) _ hm

/-- Settles O27: a vertical run colours the same bits in both forms, and memories in canonical form with the
same bits are equal; a horizontal run is the same writes. -/
theorem runsAgreeWithTheirByteForm : Obligations.RunsAgreeWithTheirByteForm := by
  refine fun c m color hm => ⟨fun bx y0 y1 hy hy1 hbx => ?_, fun row x0 x1 hx hx1 hrow =>
    paintRow_eq_paintRowBytes hx hx1 hrow color m⟩
  exact (paintColumn_colorsExactly hm hbx hy1 color).unique
    (paintColumnBytes_colorsExactly hm hbx hy color) (paintColumn_wf hm ..) (paintColumnBytes_wf hm ..)

end Sys2Proof.Machine
end

section
/-! PROOF. BLITs with opposite invert flags (spec/41_zoom_expander.md R141). Expansion commutes with
complement, so the source of one is the complement of the source of the other; a stream of a source changed
byte by byte is the stream with its data bytes changed and its commands left. -/

namespace Sys2Proof.Machine

open Sys2Proof.Claims

/-! ### A change of the data bytes -/

/-- An element of TX with its byte changed by `h` if it is data. -/
def TxByte.mapData (h : Byte → Byte) : TxByte → TxByte
  | .command b => .command b
  | .data b => .data (h b)

theorem TxByte.isData_mapData (h : Byte → Byte) (t : TxByte) : (t.mapData h).isData = t.isData := by
  cases t <;> rfl

theorem map_isData_map_mapData (h : Byte → Byte) (l : List TxByte) :
    (l.map (TxByte.mapData h)).map TxByte.isData = l.map TxByte.isData := by
  simp only [List.map_map, Function.comp_def, TxByte.isData_mapData]

theorem dataBytes_map_mapData (h : Byte → Byte) (l : List TxByte) :
    dataBytes (l.map (TxByte.mapData h)) = (dataBytes l).map h := by
  induction l with
  | nil => rfl
  | cons t l ih =>
    cases t with
    | command b => exact ih
    | data b => exact congrArg (h b :: ·) ih

theorem commandBytes_map_mapData (h : Byte → Byte) (l : List TxByte) :
    commandBytes (l.map (TxByte.mapData h)) = commandBytes l := by
  induction l with
  | nil => rfl
  | cons t l ih =>
    cases t with
    | command b => exact congrArg (b :: ·) ih
    | data b => exact ih

theorem windowCommands_map_mapData (h : Byte → Byte) (c : Config) (variant : Variant) (win : Window) :
    (windowCommands c variant win).map (TxByte.mapData h) = windowCommands c variant win := by
  cases variant with
  | ssd1306 => rfl
  | sh1106 => unfold windowCommands; cases c.shPerPage <;> rfl

theorem pagePrefix_map_mapData (h : Byte → Byte) (c : Config) (variant : Variant) (p x0 : Nat) :
    (pagePrefix c variant p x0).map (TxByte.mapData h) = pagePrefix c variant p x0 := by
  cases variant with
  | ssd1306 => rfl
  | sh1106 => unfold pagePrefix; cases c.shPerPage <;> rfl

theorem stream_map_mapData (h : Byte → Byte) (c : Config) (variant : Variant) (win : Window)
    (f : Nat → Nat → Byte) :
    (stream c variant win f).map (TxByte.mapData h) = stream c variant win fun p x => h (f p x) := by
  simp only [stream, List.map_append, windowCommands_map_mapData, List.map_flatMap,
    pagePrefix_map_mapData, List.map_map]
  rfl

/-! ### The two BLITs -/

theorem blitByte_invert {s : State} (hz : legalZoom s.cfg.zoom.toNat) (px py bw : Nat) (mirror : Bool)
    (p x : Nat) :
    blitByte s px py bw mirror true p x = ~~~ blitByte s px py bw mirror false p x :=
  expand_not hz (Nat.mod_lt _ (legalZoom_pos hz)) _

theorem blitBytes_invert {s : State} (hz : legalZoom s.cfg.zoom.toNat) (px py bw bh : Nat)
    (mirror : Bool) :
    blitBytes s px py bw bh mirror true =
      (blitBytes s px py bw bh mirror false).map (TxByte.mapData (~~~ ·)) := by
  cases hwin : blitWindow s.cfg px py bw bh with
  | none => rw [blitBytes_of_none hwin, blitBytes_of_none hwin, List.map_nil]
  | some win =>
    rw [blitBytes_of_some hwin, blitBytes_of_some hwin, stream_map_mapData]
    exact stream_congr _ _ fun p _ x _ => blitByte_invert hz px py bw mirror p x

/-- Settles O37: what the second state sends is what the first would send inverted, and that is what the
first does send with its data bytes complemented. -/
theorem oppositeBlitsAreComplements : Obligations.OppositeBlitsAreComplements := by
  intro s s' px py bw bh mirror valid h h' hcfg hvariant hbmp
  obtain ⟨hz, -⟩ := valid
  have sent' : blitBytes s' px py bw bh mirror true =
      (blitBytes s px py bw bh mirror false).map (TxByte.mapData (~~~ ·)) :=
    (blitBytes_congr hcfg hvariant (fun i _ => hbmp i) mirror true).trans
      (blitBytes_invert hz px py bw bh mirror)
  refine ⟨_, _, _, _, exec_of_admits rfl h, exec_of_admits rfl h', effect_tx _ s, effect_tx _ s', ?_⟩
  rw [sentBytes, sentBytes, sent']
  exact ⟨dataBytes_map_mapData _ _, map_isData_map_mapData _ _, commandBytes_map_mapData _ _⟩

end Sys2Proof.Machine
end

section
/-! PROOF. The parameters of window commands (spec/42_transfer_sequencer.md R165): every window that is sent
lies on the panel, whose sides are 8-bit numbers. -/

namespace Sys2Proof.Machine

open Sys2Proof.Claims

/-- A window that lies on the panel; where a side of the panel is 0 it lies at 0 (no VALIDCFG is asked). -/
def Window.OnPanel (c : Config) (win : Window) : Prop :=
  win.p0 ≤ win.p1 ∧ win.p1 ≤ physPages c - 1 ∧ win.x0 ≤ win.x1 ∧ win.x1 ≤ c.physW.toNat - 1

theorem fullWindow_onPanel (c : Config) : (fullWindow c).OnPanel c :=
  ⟨Nat.zero_le _, le_rfl, Nat.zero_le _, le_rfl⟩

theorem region_onPanel {c : Config} {x y w h : Int} {win : Window} (hr : region c x y w h = some win) :
    win.OnPanel c := by
  obtain ⟨hp, hp1, hx, hx1, -⟩ := (regionIsTheClippedRectangle c x y w h).2 win hr
  exact ⟨hp, hp1, hx, hx1⟩

theorem blitWindow_onPanel {c : Config} {px py bw bh : Nat} {win : Window}
    (hb : blitWindow c px py bw bh = some win) : win.OnPanel c := by
  obtain ⟨-, -, hp, hx, hp1, hx1, -⟩ := blitWindow_some hb
  exact ⟨hp, Nat.le_sub_one_of_lt hp1, hx, Nat.le_sub_one_of_lt hx1⟩

theorem Window.OnPanel.parameters_le {c : Config} {win : Window} (h : win.OnPanel c) :
    win.p0 ≤ 31 ∧ win.p1 ≤ 31 ∧ win.x0 ≤ 254 ∧ win.x1 ≤ 254 := by
  obtain ⟨hp, hp1, hx, hx1⟩ := h
  have pages := physPages_le c
  have width : c.physW.toNat ≤ 255 := physWidth_le c
  omega

/-- Settles O41: each of the three kinds of window lies on the panel, and the column commands take the low
and the high four bits of the column's byte. -/
theorem windowParametersFit : Obligations.WindowParametersFit := by
  intro c win sent
  have onPanel : win.OnPanel c := by
    obtain rfl | ⟨x, y, w, h, hr⟩ | ⟨px, py, bw, bh, hb⟩ := sent
    · exact fullWindow_onPanel c
    · exact region_onPanel hr
    · exact blitWindow_onPanel hb
  obtain ⟨p0_le, p1_le, x0_le, x1_le⟩ := onPanel.parameters_le
  exact ⟨p0_le, p1_le, x0_le, x1_le, lowColumn_eq c, highColumn_eq c⟩

end Sys2Proof.Machine
end
